-- ==== Sys2Proof/Word.lean ====
section
/-! DEFINITION. The word types of the block (00_scope.md R13): a `byte` is 8 bits, a `u16` 16 bits, an RX event
word 10 bits (30_encoding.md R66), a TX command descriptor 32 bits (30_encoding.md R69). -/

namespace Sys2Proof

/-- An unsigned 8-bit integer (R13). -/
abbrev Byte := BitVec 8

/-- An unsigned 16-bit integer (R13). -/
abbrev U16 := BitVec 16

/-- The 10-bit RX event word `EV[9:0]` (R66). -/
abbrev EventWord := BitVec 10

/-- The 32-bit TX command descriptor `desc` (R69). -/
abbrev Desc := BitVec 32

end Sys2Proof
end

