-- ==== Sys2Proof/Config.lean ====
section
/-! DEFINITION. What an implementation of the block fixes (00_scope.md R9), the OPEN parameter `CHECKSUM16`
(00_scope.md R10) and the free values of a reset (70_reset_and_hazards.md R141). A free value is an opaque constant
with no body: nothing in Lean can evaluate it, so a statement about it holds whatever it is. -/

namespace Sys2Proof.Config

/-- `MARKER`: the marker byte, sent twice before a frame (R9, R62). -/
def marker : Byte := 0xAA#8

/-- `MARKER_LEN`: the marker's bytes, not counted in the length byte (R9). -/
def markerLen : Nat := 2

/-- `HDR_LEN` (R9). -/
def hdrLen : Nat := 8

/-- `CK_LEN` (R9). -/
def ckLen : Nat := 2

/-- `MIN_LEN` = 1 + `HDR_LEN` + `CK_LEN` = 11, the least length byte of a frame (R9, R63). -/
def minLen : Nat := 1 + hdrLen + ckLen

/-- `MAX_LEN`: the length field is one byte (R9). -/
def maxLen : Nat := 255

/-- `MAX_PAYLOAD` = `MAX_LEN` − `MIN_LEN` = 244 (R9). -/
def maxPayload : Nat := maxLen - minLen

/-- `RX_BUF_SIZE`: bytes 0..254 (R9, R39). -/
def rxBufSize : Nat := 255

/-- `TX_BUF_SIZE` = `MARKER_LEN` + `MAX_LEN` = 257: bytes 0..256 (R9, R39). -/
def txBufSize : Nat := markerLen + maxLen

/-- `RAW_MAX`: the most bytes of a raw frame (R9, R72). -/
def rawMax : Nat := 255

/-- `BROADCAST`: an ordinary field value, with no special behaviour in the block (R9, R64). -/
def broadcast : Byte := 0xFF#8

/-- `CHECKSUM16`: a total function of the byte list and nothing more is known of it (R10, R82; log entry 3). -/
opaque checksum16 : List Byte → U16

/-- What a byte of RXBUF holds that nothing has written since the n-th reset (0: State.reset), by its index: unspecified,
any value (R17, R23, R141; log entry 4). -/
opaque resetRxByte : Nat → Nat → Byte

/-- What a byte of TXBUF holds that nothing has written since the n-th reset (0: State.reset), by its index: unspecified,
any value (R17, R28, R141; log entry 4). -/
opaque resetTxByte : Nat → Nat → Byte

/-- The descriptor half of `tx_cmd` after the n-th reset taken while the block runs: unspecified, any value
(R17, R27, R141; log entry 5). -/
opaque resetDesc : Nat → Desc

/-- The data half of `tx_cmd` after the n-th reset taken while the block runs: unspecified, any value
(R17, R27, R141; log entry 5). -/
opaque resetData : Nat → List Byte

end Sys2Proof.Config
end

