-- ==== Sys2Proof/Machine/Bits.lean ====
section
/-! DEFINITION. The bit-field and byte-order primitives of 00_scope.md R13 and the fields of the two input words
(30_encoding.md R66 and R70 to R73). Bit 0 is the least significant bit; `v[hi:lo]` is an unsigned field. -/

namespace Sys2Proof

/-- `be16(a, b) = a * 256 + b`: the first byte is the more significant (R13, R41). -/
def be16 (a b : Byte) : U16 := a ++ b

/-- `hi8(v) = v[15:8]` (R13). -/
def hi8 (v : U16) : Byte := v.extractLsb' 8 8

/-- `lo8(v) = v[7:0]` (R13). -/
def lo8 (v : U16) : Byte := v.extractLsb' 0 8

/-- `zext_N(v)` (R13). -/
def zext {w : Nat} (n : Nat) (v : BitVec w) : BitVec n := v.setWidth n

/-- `sext_N(v)`: defined by the spec for completeness, used by no rule (R13). -/
def sext {w : Nat} (n : Nat) (v : BitVec w) : BitVec n := v.signExtend n

/-- The read status `ST = EV[9:8]` of an RX event word (R66, R67). -/
def evStatus (ev : EventWord) : BitVec 2 := ev.extractLsb' 8 2

/-- The data byte `D = EV[7:0]` of an RX event word (R66). -/
def evData (ev : EventWord) : Byte := ev.extractLsb' 0 8

/-- The command kind `K = desc[31:30]` (R70). -/
def descKind (d : Desc) : BitVec 2 := d.extractLsb' 30 2

/-- `SERR = desc[29]` of an `ENCODE` descriptor (R71). -/
def descSerr (d : Desc) : Bool := d.getLsbD 29

/-- The reserved bits `desc[28:24]` of an `ENCODE` descriptor (R71). -/
def descEncReserved (d : Desc) : BitVec 5 := d.extractLsb' 24 5

/-- `N = desc[23:16]`, the payload length of an `ENCODE` (R71). -/
def descN (d : Desc) : Byte := d.extractLsb' 16 8

/-- `MSGOP = desc[15:0]` of an `ENCODE` (R71). -/
def descMsgop (d : Desc) : U16 := d.extractLsb' 0 16

/-- The reserved bits `desc[29:8]` of a `RAW` descriptor (R72). -/
def descRawReserved (d : Desc) : BitVec 22 := d.extractLsb' 8 22

/-- `M = desc[7:0]`, the byte count of a `RAW` (R72). -/
def descM (d : Desc) : Byte := d.extractLsb' 0 8

/-- The one `CLOSE` descriptor, 0x80000000 (R73). -/
def closeDesc : Desc := 0x80000000#32

/-- How many data bytes a descriptor announces: 8 + N for `ENCODE`, M for `RAW`, none otherwise. A decoder knows
the extent of every command from its descriptor alone (R77). -/
def descExtent (d : Desc) : Nat :=
  if descKind d = 0#2 then 8 + (descN d).toNat
  else if descKind d = 1#2 then (descM d).toNat
  else 0

end Sys2Proof
end

