-- ==== Sys2Proof/Syntax.lean ====
section
/-! DEFINITION. The block's input operations (30_encoding.md R78): one constructor of `Instr` per row of
spec/opcode_table.json. The internal agent steps GRANT_RX, GRANT_TX, ENC, EMIT and DELIVER have no encoding (R78); they
are in Machine/Agents.lean. -/

namespace Sys2Proof

/-- The caller's 8 header bytes `h0..h7` in wire order (30_encoding.md R64, R71). -/
structure HdrBytes where
  h0 : Byte
  h1 : Byte
  h2 : Byte
  h3 : Byte
  h4 : Byte
  h5 : Byte
  h6 : Byte
  h7 : Byte
  deriving DecidableEq, Repr

/-- A TX command record `(desc, data)` as CMD offers it on the `cmd` port in one handshake (30_encoding.md R69). -/
structure CmdRecord where
  desc : Desc
  data : List Byte
  deriving DecidableEq, Repr

/-- What the two input ports carry: an RX event word on `rx_ev` or a TX command record on `cmd`
(00_scope.md R8). -/
inductive Input where
  | ev (w : EventWord)
  | cmd (r : CmdRecord)
  deriving DecidableEq, Repr

/-- The eight encoded operations of the block (30_encoding.md R78). -/
inductive Instr where
  /-- `BYTE D`: a byte was read from the stream (41_sync_scanner.md R89). -/
  | byte (d : Byte)
  /-- `TIMEOUT`: the stream read timed out (41_sync_scanner.md R90). -/
  | timeout
  /-- `ERROR`: a non-timeout I/O error (41_sync_scanner.md R91). -/
  | error
  /-- `CLOSED`: the stream is closed or at its end (41_sync_scanner.md R92). -/
  | closed
  /-- `ENCODE`: header, opcode and serialized payload (30_encoding.md R71, 43_frame_encoder.md R110). -/
  | encode (serr : Bool) (n : Byte) (msgop : U16) (hdr : HdrBytes) (pay : List Byte)
  /-- `RAW`: a ready frame, length byte through checksum (30_encoding.md R72, 43_frame_encoder.md R111). -/
  | raw (m : Byte) (bytes : List Byte)
  /-- `CLOSE`: the send queue is closed (30_encoding.md R73, 43_frame_encoder.md R112). -/
  | close
  /-- Any illegal record, kind 11 among them (30_encoding.md R74, 43_frame_encoder.md R113). -/
  | illegal (r : CmdRecord)
  deriving DecidableEq, Repr

end Sys2Proof
end

