-- ==== Sys2Proof/WellFormed.lean ====
section
/-! DEFINITION. Which terms of `Instr` stand for an input: the counts of `ENCODE` and `RAW` agree with their bytes
(30_encoding.md R71, R72), and `illegal` carries a record that R74 calls illegal. -/

namespace Sys2Proof

/-- The conditions of 30_encoding.md R74, one disjunct for each of its clauses, in its order. -/
def CmdRecord.isIllegal (r : CmdRecord) : Bool :=
  descKind r.desc == 3#2
  || (descKind r.desc == 0#2 && descEncReserved r.desc != 0#5)
  || (descKind r.desc == 0#2 && r.data.length != 8 + (descN r.desc).toNat)
  || (descKind r.desc == 1#2 && descRawReserved r.desc != 0#22)
  || (descKind r.desc == 1#2 && r.data.length != (descM r.desc).toNat)
  || (descKind r.desc == 2#2 && (r.desc != closeDesc || r.data != []))

/-- A well-formed operation: one that some input word or record encodes. -/
def Instr.wellFormed : Instr → Bool
  | .byte _ => true
  | .timeout => true
  | .error => true
  | .closed => true
  | .encode _ n _ _ pay => pay.length == n.toNat
  | .raw m bytes => bytes.length == m.toNat
  | .close => true
  | .illegal r => r.isIllegal

end Sys2Proof
end

