-- ==== Sys2Proof/Decode.lean ====
section
/-! DEFINITION. The decoders of 30_encoding.md, total on every event word (R68) and every command record (R75), and the
encoder written from the same tables (R67, R70 to R73, R78). There is no input either decoder rejects: a record outside
the legal formats decodes to `illegal`, which has a defined behaviour (R79, 43_frame_encoder.md R113). -/

namespace Sys2Proof

/-- The header bytes as a list, in wire order (30_encoding.md R64). -/
def HdrBytes.toList (h : HdrBytes) : List Byte := [h.h0, h.h1, h.h2, h.h3, h.h4, h.h5, h.h6, h.h7]

/-- The RX event decoder: `EV[9:8]` selects, and for the three statuses other than 00 the data bits are ignored
(30_encoding.md R67, R68). -/
def decodeEvent (ev : EventWord) : Instr :=
  if evStatus ev = 0#2 then .byte (evData ev)
  else if evStatus ev = 1#2 then .timeout
  else if evStatus ev = 2#2 then .error
  else .closed

/-- The TX command decoder, in the order of test of 30_encoding.md R75. -/
def decodeCommand (r : CmdRecord) : Instr :=
  if descKind r.desc = 0#2 ∧ descEncReserved r.desc = 0#5 ∧ r.data.length = 8 + (descN r.desc).toNat then
    match r.data with
    | h0 :: h1 :: h2 :: h3 :: h4 :: h5 :: h6 :: h7 :: pay =>
      .encode (descSerr r.desc) (descN r.desc) (descMsgop r.desc) ⟨h0, h1, h2, h3, h4, h5, h6, h7⟩ pay
    | _ => .illegal r
  else if descKind r.desc = 1#2 ∧ descRawReserved r.desc = 0#22 ∧ r.data.length = (descM r.desc).toNat then
    .raw (descM r.desc) r.data
  else if r.desc = closeDesc ∧ r.data = [] then .close
  else .illegal r

/-- The decoder of either input port (00_scope.md R8). -/
def decode : Input → Instr
  | .ev w => decodeEvent w
  | .cmd r => decodeCommand r

/-- The event word with status `st` and data bits `d` (30_encoding.md R66). -/
def eventWord (st : BitVec 2) (d : Byte) : EventWord := st ++ d

/-- The record of an `ENCODE`: `00 S 00000 NNNNNNNN OOOO…O`, data the header bytes and then the payload
(30_encoding.md R71, R78). -/
def encodeRecord (serr : Bool) (n : Byte) (msgop : U16) (hdr : HdrBytes) (pay : List Byte) : CmdRecord :=
  { desc := 0#2 ++ BitVec.ofBool serr ++ 0#5 ++ n ++ msgop, data := hdr.toList ++ pay }

/-- The record of a `RAW`: `01 0…0 (22 bits) MMMMMMMM`, data the raw bytes (30_encoding.md R72, R78). -/
def rawRecord (m : Byte) (bytes : List Byte) : CmdRecord :=
  { desc := 1#2 ++ 0#22 ++ m, data := bytes }

/-- The record of a `CLOSE` (30_encoding.md R73). -/
def closeRecord : CmdRecord := { desc := closeDesc, data := [] }

/-- The encoder. The data bits of the events that ignore them are written 0 (log entry 12). -/
def encode : Instr → Input
  | .byte d => .ev (eventWord 0#2 d)
  | .timeout => .ev (eventWord 1#2 0#8)
  | .error => .ev (eventWord 2#2 0#8)
  | .closed => .ev (eventWord 3#2 0#8)
  | .encode serr n msgop hdr pay => .cmd (encodeRecord serr n msgop hdr pay)
  | .raw m bytes => .cmd (rawRecord m bytes)
  | .close => .cmd closeRecord
  | .illegal r => .cmd r

/-- The `n` bytes of the number `w` from its bit `lo` up, the first in the lowest bits. -/
def bytesOfNat (w lo : Nat) : Nat → List Byte
  | 0 => []
  | n + 1 => BitVec.ofNat 8 (w >>> lo) :: bytesOfNat w (lo + 8) n

/-- The RX event word in the low 10 bits of a table word (log entry 12). -/
def tableEvent (w : Nat) : EventWord := BitVec.ofNat 10 w

/-- The command record of a table word: its low 32 bits are the descriptor, and the data bytes that the descriptor
announces (R77) count on from bit 32, so they are zeros where the word gives them no bits (log entry 12). -/
def tableRecord (w : Nat) : CmdRecord :=
  let d : Desc := BitVec.ofNat 32 w
  { desc := d, data := bytesOfNat w 32 (descExtent d) }

/-- The port a table word goes to: a row of 10 bits (16 in whole bytes) is an RX event, a row of 32 bits or more a TX
command; the block has no input of another width. -/
def tableInput (nbits w : Nat) : Option Input :=
  if 10 ≤ nbits ∧ nbits ≤ 16 then some (.ev (tableEvent w))
  else if 32 ≤ nbits then some (.cmd (tableRecord w))
  else none

/-- The instruction the decoder reads from a word of spec/opcode_table.json. -/
def decodeTableWord (nbits w : Nat) : Option Instr := (tableInput nbits w).map decode

end Sys2Proof
end

