-- ==== Sys2Proof/Machine/State.lean ====
section
/-! DEFINITION. The state of the block as plain data: the architectural tuple of 10_state.md R17, the observation
histories of R38, and the model's own fields: the environment's inputs at the ports of 00_scope.md R8 and the order in
which the agents step (00_scope.md R7, 20_memory.md R48; log entries 1 and 2). -/

namespace Sys2Proof.Machine

/-- `rx_state`, 3 bits (10_state.md R20). The value 7 is never entered and has no constructor (log entry 8). -/
inductive RxState where
  | hunt | acq | seen1 | len | body | out | fatal
  deriving DecidableEq, Repr

/-- `tx_state`, 3 bits (10_state.md R26). The values 5..7 are never entered and have no constructor (log entry 8). -/
inductive TxState where
  | idle | acq | enc | emit | closed
  deriving DecidableEq, Repr

/-- `owner`, 2 bits: who holds link ownership (10_state.md R30). -/
inductive Owner where
  | none | rx | tx
  deriving DecidableEq, Repr

/-- `rx_fatal`, 2 bits: why the inbound path terminated (10_state.md R24). -/
inductive RxFatal where
  | none | error | closed
  deriving DecidableEq, Repr

/-- `conn_state`, 2 bits, a function of state (10_state.md R33). -/
inductive ConnState where
  | running | draining | stopped
  deriving DecidableEq, Repr

/-- The diagnostic codes (60_exceptions.md R123). -/
inductive DiagCode where
  | unsyncedByte | falseStart | shortLength | readTimeout | checksumMismatch | fatalReadError | fatalClosed
  deriving DecidableEq, Repr

/-- The info value of a diag record (60_exceptions.md R123, column `info`). -/
inductive DiagInfo where
  | none
  | byte (b : Byte)
  | index (i : Byte)
  | sums (received computed : U16)
  deriving DecidableEq, Repr

/-- The `tx_status` codes (60_exceptions.md R123). -/
inductive TxStatus where
  | txDone | encErrSerialize | encErrLength | txWriteError | illegalCmd | closedOk
  deriving DecidableEq, Repr

/-- SNK's answer to an offered byte, `tx_ack` (00_scope.md R8, 43_frame_encoder.md R120). -/
inductive Ack where
  | ok | error
  deriving DecidableEq, Repr

/-- An internal byte array (20_memory.md R39) as the bytes written since the last reset: (index, byte) pairs, indices
strictly rising. A byte with no pair still holds the value it had after that reset, which is unspecified (10_state.md R23,
R28): a free value of Config, read by `rxRead` and `txRead` (log entry 4). -/
abbrev Memory := List Host.Cell

/-- The frame record that the `fo` port carries while `rx_state = OUT` (10_state.md R25). -/
structure FoFrame where
  len : Byte
  bytes : List Byte
  origin_subnet : Byte
  origin_device : Byte
  origin_device_type : U16
  opcode : U16
  target_subnet : Byte
  target_device : Byte
  payload_len : Byte
  payload : List Byte
  checksum : U16
  deriving DecidableEq, Repr

/-- The two agents a grant can go to (20_memory.md R53, R54). -/
inductive Grantee where
  | rx | tx
  deriving DecidableEq, Repr

/-- What HOST does (60_exceptions.md R139): it asserts `rst`; it releases it, which is `start()`; it offers a record,
which is `send()`; and the two steps of `stop()` that act on a port: offering CLOSE and closing the stream. -/
inductive HostOp where
  | reset
  | start
  | send (r : CmdRecord)
  | closeQueue
  | closeStream
  deriving DecidableEq, Repr

/-- One turn of the interleaving (00_scope.md R7): which agent may step, with what the environment does in that step:
CON's `fo_ready`, SNK's `tx_ack` if it answers, and, where both grants are enabled, which one the arbiter makes. -/
inductive Turn where
  | rx (foReady : Bool)
  | tx (ack : Option Ack)
  | arb (choice : Grantee)
  | host (op : HostOp)
  deriving DecidableEq, Repr

/-- The whole machine. -/
structure State where
  /-- R20 -/
  rx_state : RxState
  /-- R21: the length byte of the frame being read. -/
  rx_len : Byte
  /-- R22: how many bytes of the current attempt are stored. -/
  rx_idx : Byte
  /-- R23: RXBUF, 255 bytes; what is written of it. -/
  rx_buf : Memory
  /-- R24 -/
  rx_fatal : RxFatal
  /-- R26 -/
  tx_state : TxState
  /-- R27: the latched command record. -/
  tx_cmd : CmdRecord
  /-- R28: TXBUF, 257 bytes; what is written of it. -/
  tx_buf : Memory
  /-- R29: the number of valid bytes of TXBUF, 9 bits. -/
  tx_cnt : BitVec 9
  /-- R29: the index of the next byte to emit, 9 bits. -/
  tx_idx : BitVec 9
  /-- R30 -/
  owner : Owner
  /-- R38: the RX event words accepted on `rx_ev`. -/
  wire_in : List EventWord
  /-- R38: every byte TX offered with SNK's answer. -/
  wire_out : List (Byte × Ack)
  /-- R38: the diag records. -/
  diag_log : List (DiagCode × DiagInfo)
  /-- R38: the `tx_status` codes. -/
  txs_log : List TxStatus
  /-- The frame records CON has taken, in order (R105; the model's own record, log entry 6). -/
  delivered : List FoFrame
  /-- The level of the `rst` input (R8, R141). -/
  rst : Bool
  /-- The event words SRC has still to deliver, the offered one first: `rx_ev_valid` is that there is one (R8). -/
  rx_ev : List EventWord
  /-- The records CMD has still to deliver, the offered one first: `cmd_valid` is that there is one (R8). -/
  cmd : List CmdRecord
  /-- The turns the agents are still to take, the next one first (R7, R48; the model's own, log entry 1). -/
  sched : List Turn
  /-- How many resets were taken while the block ran: it picks the free values of
  `tx_cmd` and of the buffers (the model's own, log entries 4 and 5). -/
  resets : Nat
  deriving DecidableEq, Repr

/-- Why the machine stops. No state that a run from reset reaches raises one (Safety.lean, `Inv`): each marks a state
to which the spec gives no successor. -/
inductive Fault where
  /-- A rule formed an index outside RXBUF or TXBUF: raised by the LEN, BODY, OUT, ENC and EMIT rules. 20_memory.md R39
  defines no such access. Safe. -/
  | bufferIndex
  /-- An agent released ownership it does not hold: raised by the rules R56 names. R56 requires the ownership. Safe. -/
  | releaseNotOwner
  /-- BODY finished, or OUT offers, a frame whose `rx_len` is below 11: raised by R103 and by DELIVER. R101 and R106 rule
  it out. Safe. -/
  | frameTooShort
  /-- ENC with a `tx_cmd` that is neither an ENCODE nor a RAW: raised by the ENC step, to which R114 gives no other case.
  Safe. -/
  | encWithoutFrame
  deriving DecidableEq, Repr

/-- Why an instruction or a turn is refused. -/
inductive Refusal where
  /-- An instruction without a meaning in this model: raised by no arm of `exec`. Safe. -/
  | notModelled (mnemonic : String)
  /-- HOST's second `start()` without a reset between: 70_reset_and_hazards.md R145 gives it no move. Safe. -/
  | secondStart
  deriving DecidableEq, Repr

/-- The machine right after reset (10_state.md R17, R38; 70_reset_and_hazards.md R141, R142), `rst` released, with no
input offered and no turn scheduled. Nothing is written of the buffers: each byte holds its free value (log entry 4).
`tx_cmd` is unspecified by R17: its value here is a DESIGN CHOICE (log entry 5). -/
def State.reset : State where
  rx_state := .hunt
  rx_len := 0#8
  rx_idx := 0#8
  rx_buf := []
  rx_fatal := .none
  tx_state := .idle
  tx_cmd := ⟨0#32, []⟩
  tx_buf := []
  tx_cnt := 0#9
  tx_idx := 0#9
  owner := .none
  wire_in := []
  wire_out := []
  diag_log := []
  txs_log := []
  delivered := []
  rst := false
  rx_ev := []
  cmd := []
  sched := []
  resets := 0

/-- What a step or a meaning answers. -/
abbrev Result := Host.Outcome State Fault Refusal

end Sys2Proof.Machine
end

