-- ==== Sys2Proof/Machine/Ops.lean ====
section
/-! DEFINITION. The named operations over the buffers, the link and the histories, and the block's exceptions: the drop,
the fatal termination and the TX error (00_scope.md R14, R15; 20_memory.md R39, R56; 60_exceptions.md R124 to R126). -/

namespace Sys2Proof.Machine

/-! ### The byte arrays (20_memory.md R39) -/

/-- The byte written at index `a`, if something has written it since the last reset. -/
def memRead : Memory → Nat → Option Byte
  | [], _ => none
  | (b, x) :: m, a => if a = b then some x else memRead m a

/-- The array with byte `a` written, its indices still strictly rising. -/
def memPut : Memory → Nat → Byte → Memory
  | [], a, v => [(a, v)]
  | (b, x) :: m, a, v =>
    if a < b then (a, v) :: (b, x) :: m
    else if a = b then (a, v) :: m
    else (b, x) :: memPut m a v

/-- Whether every index of the array is at least `lo` and the indices strictly rise. -/
def memRises (lo : Nat) : Memory → Bool
  | [] => true
  | (b, _) :: m => decide (lo ≤ b) && memRises (b + 1) m

/-- The canonical form of an array: indices strictly rising, so that arrays with the same written bytes are equal lists. -/
def Memory.wf (m : Memory) : Bool := memRises 0 m

/-- `MemWrite(buf + a, 1, v)` on an array of `size` bytes: defined only for `a < size` (20_memory.md R39). -/
def memWrite (size : Nat) (m : Memory) (a : Nat) (v : Byte) : Option Memory :=
  if a < size then some (memPut m a v) else none

/-- `MemRead(buf + a, 1)` on an array of `size` bytes: the written byte, or the free value `free a` where nothing has
written it since the last reset; defined only for `a < size` (20_memory.md R39; log entry 4). -/
def bufRead (size : Nat) (free : Nat → Byte) (m : Memory) (a : Nat) : Option Byte :=
  if a < size then some ((memRead m a).getD (free a)) else none

/-- `MemRead(RXBUF + a, 1)` (00_scope.md R14, 10_state.md R23). -/
def rxRead (s : State) (a : Nat) : Option Byte :=
  bufRead Config.rxBufSize (Config.resetRxByte s.resets) s.rx_buf a

/-- `MemRead(TXBUF + a, 1)` (00_scope.md R14, 10_state.md R28). -/
def txRead (s : State) (a : Nat) : Option Byte :=
  bufRead Config.txBufSize (Config.resetTxByte s.resets) s.tx_buf a

/-- The bytes that `rd` reads at the `n` indices from `a` up, if it reads all of them. -/
def readRange (rd : Nat → Option Byte) (a : Nat) : Nat → Option (List Byte)
  | 0 => some []
  | n + 1 =>
    match rd a, readRange rd (a + 1) n with
    | some b, some bs => some (b :: bs)
    | _, _ => none

/-- The bytes of a list written one after the other from index `a` up (43_frame_encoder.md R115, R119). -/
def memWriteList (size : Nat) (m : Memory) (a : Nat) : List Byte → Option Memory
  | [] => some m
  | v :: vs =>
    match memWrite size m a v with
    | some m' => memWriteList size m' (a + 1) vs
    | none => none

/-! ### Output events (60_exceptions.md R123) -/

/-- `diag(code, info)`: it appends one record and never stalls (00_scope.md R15). -/
def diag (code : DiagCode) (info : DiagInfo) (s : State) : State :=
  { s with diag_log := s.diag_log ++ [(code, info)] }

/-- `tx_status(code)` (60_exceptions.md R123). -/
def txStatus (code : TxStatus) (s : State) : State :=
  { s with txs_log := s.txs_log ++ [code] }

/-! ### Link ownership (20_memory.md R52 to R56) -/

/-- The link given up by whoever holds it: the effect of a release. -/
def freeLink (s : State) : State := { s with owner := .none }

/-- `release(a)`: it requires `owner = a` and sets `owner <- NONE` (20_memory.md R56; log entry 7). -/
def release (a : Owner) (s : State) : Result :=
  if s.owner = a then .next (freeLink s) else .fault .releaseNotOwner

/-- The rest of an atomic step after one of its actions (00_scope.md R15). -/
def andThen (r : Result) (f : State → Result) : Result :=
  match r with
  | .next s => f s
  | .fault e => .fault e
  | .refused e => .refused e

/-! ### The exceptions (60_exceptions.md R124 to R126) -/

/-- `raise DROP(code, info)` (R124): `rx_len`, `rx_idx` and `rx_buf` keep their stale values. -/
def raiseDrop (code : DiagCode) (info : DiagInfo) (s : State) : State :=
  let s := diag code info s
  let s := if s.owner = .rx then freeLink s else s
  { s with rx_state := .hunt }

/-- The two causes of a fatal termination (R125). -/
inductive FatalCause where
  | error | closed
  deriving DecidableEq, Repr

/-- The diag code of a fatal cause (R125). -/
def fatalDiag : FatalCause → DiagCode
  | .error => .fatalReadError
  | .closed => .fatalClosed

/-- The value of `rx_fatal` for a fatal cause (R125). -/
def fatalValue : FatalCause → RxFatal
  | .error => .error
  | .closed => .closed

/-- `raise FATAL(cause)` (R125): the inbound path ends for good and TX is not affected. -/
def raiseFatal (cause : FatalCause) (s : State) : State :=
  let s := diag (fatalDiag cause) .none s
  let s := if s.owner = .rx then freeLink s else s
  { s with rx_fatal := fatalValue cause, rx_state := .fatal }

/-- `raise TXERR(code)` (R126): the command is abandoned and TX is ready for the next one. -/
def raiseTxErr (code : TxStatus) (s : State) : Result :=
  andThen (release .tx s) fun s => .next { txStatus code s with tx_state := .idle }

/-! ### Taking an input (41_sync_scanner.md R88, 43_frame_encoder.md R109) -/

/-- SRC's event `w` is consumed: it leaves the port and is recorded in `wire_in`; `ws` is what SRC offers next (R88). -/
def takeEvent (w : EventWord) (ws : List EventWord) (s : State) : State :=
  { s with rx_ev := ws, wire_in := s.wire_in ++ [w] }

/-- CMD's record is consumed and `rs` is what CMD offers next (R109). -/
def takeRecord (rs : List CmdRecord) (s : State) : State := { s with cmd := rs }

/-- A command record latched, and link ownership requested (43_frame_encoder.md R110, R111). -/
def latchCommand (r : CmdRecord) (s : State) : State := { s with tx_cmd := r, tx_state := .acq }

/-! ### Reset (70_reset_and_hazards.md R141) -/

/-- Every element of 10_state.md R17 at its reset value. Nothing is written of the two buffers, so each byte
holds its free value for this reset (log entry 4), `tx_cmd` is a free value (log entry 5), the histories are kept, and no event, command, diag or status record is involved. -/
def resetBlock (s : State) : State :=
  { s with
    rx_state := .hunt, rx_len := 0#8, rx_idx := 0#8, rx_buf := [], rx_fatal := .none,
    tx_state := .idle, tx_cmd := ⟨Config.resetDesc s.resets, Config.resetData s.resets⟩, tx_buf := [],
    tx_cnt := 0#9, tx_idx := 0#9, owner := .none, resets := s.resets + 1 }

end Sys2Proof.Machine
end

