-- ==== Sys2Proof/Machine/Flags.lean ====
section
/-! DEFINITION. The derived signals: the handshake and request outputs and the connection state, all functions of the
state (10_state.md R17, R32, R33). The block has no condition codes (R34). -/

namespace Sys2Proof.Machine

/-- `rx_ev_ready` (R32). -/
def rxEvReady (s : State) : Bool :=
  match s.rx_state with
  | .hunt | .seen1 | .len | .body => true
  | .acq | .out | .fatal => false

/-- `fo_valid` (R32). -/
def foValid (s : State) : Bool := s.rx_state == .out

/-- `cmd_ready` (R32). -/
def cmdReady (s : State) : Bool := s.tx_state == .idle

/-- `tx_valid` (R32). -/
def txValid (s : State) : Bool := s.tx_state == .emit

/-- `tx_byte` while `tx_valid` (R32): `tx_buf[tx_idx]`. It carries nothing otherwise. -/
def txByte (s : State) : Option Byte := if txValid s then txRead s s.tx_idx.toNat else none

/-- `rx_req` (R32, R52). -/
def rxReq (s : State) : Bool := s.rx_state == .acq

/-- `tx_req` (R32, R52). -/
def txReq (s : State) : Bool := s.tx_state == .acq

/-- `rx_ev_valid`: SRC offers an event (00_scope.md R8). -/
def rxEvValid (s : State) : Bool := !s.rx_ev.isEmpty

/-- `cmd_valid`: CMD offers a record (00_scope.md R8). -/
def cmdValid (s : State) : Bool := !s.cmd.isEmpty

/-- `conn_state` (R33). -/
def connState (s : State) : ConnState :=
  if s.rx_state ≠ .fatal ∧ s.tx_state ≠ .closed then .running
  else if s.rx_state = .fatal ∧ s.tx_state = .closed then .stopped
  else .draining

/-- `stop()` returns when the connection is STOPPED (60_exceptions.md R139). -/
def stopReturns (s : State) : Bool := connState s == .stopped

end Sys2Proof.Machine
end

