-- ==== Sys2Proof/Machine/Operands.lean ====
section
/-! DEFINITION. How the multi-byte operands are assembled, all big-endian and zero-extended (20_memory.md R41, R42;
30_encoding.md R76): the frame record of 10_state.md R25, the checksum verifier and generator of 40_checksum.md R83 and
R84, and the wire images of 43_frame_encoder.md R115 and R119. -/

namespace Sys2Proof.Machine

/-- The 16-bit value whose more significant byte stands at index `a` (20_memory.md R41). -/
def readBe16 (rd : Nat → Option Byte) (a : Nat) : Option U16 :=
  match rd a, rd (a + 1) with
  | some hi, some lo => some (be16 hi lo)
  | _, _ => none

/-! ### The verifier (40_checksum.md R83) -/

/-- The two sums the verifier compares for a frame of length `L` that `rd` reads: the received one from the last two bytes and
the computed one over bytes 0..L−3. -/
def frameSums (rd : Nat → Option Byte) (L : Byte) : Option (U16 × U16) :=
  match readRange rd 0 (L.toNat - 2), readBe16 rd (L.toNat - 2) with
  | some bs, some received => some (received, Config.checksum16 bs)
  | _, _ => none

/-- `ck_ok(rx_buf, L)` (R83), the buffer as the function `rd` that reads it. -/
def ckOk (rd : Nat → Option Byte) (L : Byte) : Option Bool :=
  (frameSums rd L).map fun p => p.2 == p.1

/-! ### The frame record (10_state.md R25) -/

/-- The record computed from `L` and the buffer, as the function `rd` that reads it; `L` is at least 11 (R106). -/
def foRecord (rd : Nat → Option Byte) (L : Byte) : Option FoFrame := do
  let bytes ← readRange rd 0 L.toNat
  let origin_subnet ← rd 1
  let origin_device ← rd 2
  let origin_device_type ← readBe16 rd 3
  let opcode ← readBe16 rd 5
  let target_subnet ← rd 7
  let target_device ← rd 8
  let payload ← readRange rd 9 (L.toNat - Config.minLen)
  let checksum ← readBe16 rd (L.toNat - 2)
  some {
    len := L, bytes, origin_subnet, origin_device, origin_device_type, opcode, target_subnet, target_device,
    payload_len := BitVec.ofNat 8 (L.toNat - Config.minLen), payload, checksum }

/-- What the `fo` port carries: the frame record while `fo_valid`, nothing specified in every other state (R25). -/
def fo (s : State) : Option FoFrame := if foValid s then foRecord (rxRead s) s.rx_len else none

/-! ### The generator and the wire images (40_checksum.md R84, 43_frame_encoder.md R115, R119) -/

/-- The two marker bytes (30_encoding.md R62). -/
def markerBytes : List Byte := [Config.marker, Config.marker]

/-- The length byte of a frame with `n` payload bytes, `L = (1 + 8 + n) + 2` (R115). -/
def frameLength (n : Nat) : Nat := 1 + Config.hdrLen + n + Config.ckLen

/-- The frame body `[L, hdr[0..3], hi8(MSGOP), lo8(MSGOP), hdr[6], hdr[7]] ++ pay`, of `L − 2` bytes: the caller's
opcode bytes are replaced (R115, R116). -/
def frameBody (n : Byte) (msgop : U16) (hdr : HdrBytes) (pay : List Byte) : List Byte :=
  [BitVec.ofNat 8 (frameLength n.toNat), hdr.h0, hdr.h1, hdr.h2, hdr.h3, hi8 msgop, lo8 msgop, hdr.h6, hdr.h7] ++ pay

/-- A body with its checksum appended, high byte first (40_checksum.md R84, 20_memory.md R42). -/
def withChecksum (body : List Byte) : List Byte :=
  let c := Config.checksum16 body
  body ++ [hi8 c, lo8 c]

/-- The frame of an `ENCODE`: length byte through checksum. -/
def encodeFrame (n : Byte) (msgop : U16) (hdr : HdrBytes) (pay : List Byte) : List Byte :=
  withChecksum (frameBody n msgop hdr pay)

/-- The wire image of a frame: the marker, not counted in the length, and the frame (R115, R119). -/
def wireImage (frame : List Byte) : List Byte := markerBytes ++ frame

end Sys2Proof.Machine
end

