-- ==== Sys2Proof/Machine/Agents.lean ====
section
/-! DEFINITION. The internal steps that no input encodes (30_encoding.md R78): the arbiter's grants (20_memory.md R53 to
R55) and TX's ENC and EMIT steps (43_frame_encoder.md R114 to R120); and HOST's operations (60_exceptions.md R139). -/

namespace Sys2Proof.Machine

/-! ### The arbiter -/

/-- GRANT_RX is enabled (R53). -/
def grantRxEnabled (s : State) : Bool := s.owner == .none && rxReq s

/-- GRANT_TX is enabled (R54). -/
def grantTxEnabled (s : State) : Bool := s.owner == .none && txReq s

/-- GRANT_RX (R53). -/
def grantRx (s : State) : State := { s with owner := .rx, rx_state := .seen1 }

/-- GRANT_TX (R54). -/
def grantTx (s : State) : State := { s with owner := .tx, tx_state := .enc }

/-- ARB's turn: the enabled grant; where both are, the one of `choice`, which nothing in the model prefers (R55); none
where neither is. -/
def arbTurn (choice : Grantee) (s : State) : State :=
  if grantRxEnabled s && (choice == .rx || !grantTxEnabled s) then grantRx s
  else if grantTxEnabled s then grantTx s
  else s

/-! ### ENC and EMIT -/

/-- The assembled image put into TXBUF and its emission begun (R115, R119). -/
def loadImage (img : List Byte) (s : State) : Result :=
  match memWriteList Config.txBufSize s.tx_buf 0 img with
  | some m => .next { s with tx_buf := m, tx_cnt := BitVec.ofNat 9 img.length, tx_idx := 0#9, tx_state := .emit }
  | none => .fault .bufferIndex

/-- ENC of an `ENCODE` (R115, R117): the two checks in order, and then the image. -/
def encEncode (serr : Bool) (n : Byte) (msgop : U16) (hdr : HdrBytes) (pay : List Byte) (s : State) : Result :=
  if serr then raiseTxErr .encErrSerialize s
  else if Config.maxPayload < n.toNat then raiseTxErr .encErrLength s
  else loadImage (wireImage (encodeFrame n msgop hdr pay)) s

/-- ENC of a `RAW` (R119): nothing of the frame is checked or changed. -/
def encRaw (bytes : List Byte) (s : State) : Result := loadImage (wireImage bytes) s

/-- The ENC step on the latched command (R114). -/
def encStep (s : State) : Result :=
  match decodeCommand s.tx_cmd with
  | .encode serr n msgop hdr pay => encEncode serr n msgop hdr pay s
  | .raw _ bytes => encRaw bytes s
  | _ => .fault .encWithoutFrame

/-- What follows SNK's answer to a byte already recorded in `wire_out` (R120). -/
def afterAck (ack : Ack) (s : State) : Result :=
  match ack with
  | .error => raiseTxErr .txWriteError s
  | .ok =>
    if s.tx_idx.toNat + 1 = s.tx_cnt.toNat then
      andThen (release .tx s) fun s => .next { txStatus .txDone s with tx_state := .idle }
    else .next { s with tx_idx := s.tx_idx + 1#9 }

/-- The EMIT step with SNK's answer (R120). -/
def emitStep (ack : Ack) (s : State) : Result :=
  match txRead s s.tx_idx.toNat with
  | some b => afterAck ack { s with wire_out := s.wire_out ++ [(b, ack)] }
  | none => .fault .bufferIndex

/-! ### HOST -/

/-- HOST's turn (R139). Asserting `rst` takes the reset at once; `start()` is its release and has no move where `rst` is
low (70_reset_and_hazards.md R145); `send()` offers a record after the ones it offered before; `stop()` offers CLOSE
after them, and closes the stream, so that SRC delivers CLOSED at RX's next read (log entry 11). -/
def hostTurn (op : HostOp) (s : State) : Result :=
  match op with
  | .reset => .next (resetBlock { s with rst := true })
  | .start => if s.rst then .next { s with rst := false } else .refused .secondStart
  | .send r => .next { s with cmd := s.cmd ++ [r] }
  | .closeQueue => .next { s with cmd := s.cmd ++ [closeRecord] }
  | .closeStream => .next { s with rx_ev := eventWord 3#2 0#8 :: s.rx_ev }

end Sys2Proof.Machine
end

