-- ==== Sys2Proof/Machine/Reader.lean ====
section
/-! DEFINITION. The frame reader's rules in LEN, BODY and OUT (42_frame_reader.md R100 to R105). -/

namespace Sys2Proof.Machine

/-- LEN, `BYTE D` with `D ≥ 11` (R100). -/
def lenAccepted (d : Byte) (s : State) : Result :=
  match memWrite Config.rxBufSize s.rx_buf 0 d with
  | some m => .next { s with rx_len := d, rx_buf := m, rx_idx := 1#8, rx_state := .body }
  | none => .fault .bufferIndex

/-- LEN, `BYTE D` with `D < 11` (R101). -/
def lenShort (d : Byte) (s : State) : Result := .next (raiseDrop .shortLength (.byte d) s)

/-- LEN, `BYTE D` (R89, R100, R101). -/
def lenByte (d : Byte) (s : State) : Result :=
  if Config.minLen ≤ d.toNat then lenAccepted d s else lenShort d s

/-- BODY, `BYTE D` that is not the last frame byte (R102). -/
def bodyMiddle (d : Byte) (s : State) : Result :=
  match memWrite Config.rxBufSize s.rx_buf s.rx_idx.toNat d with
  | some m => .next { s with rx_buf := m, rx_idx := s.rx_idx + 1#8 }
  | none => .fault .bufferIndex

/-- The outcome of the last frame byte, stored in `s`: the frame is offered, or dropped for its checksum (R103). -/
def verifyFrame (s : State) : Result :=
  match frameSums (rxRead s) s.rx_len with
  | none => .fault .bufferIndex
  | some (received, computed) =>
    if computed = received then
      andThen (release .rx s) fun s => .next { s with rx_state := .out }
    else .next (raiseDrop .checksumMismatch (.sums received computed) s)

/-- BODY, `BYTE D`, the last frame byte (R103). A length below 11 has no such byte (R101, R106; log entry 9). -/
def bodyLast (d : Byte) (s : State) : Result :=
  if s.rx_len.toNat < Config.minLen then .fault .frameTooShort
  else
    match memWrite Config.rxBufSize s.rx_buf s.rx_idx.toNat d with
    | some m => verifyFrame { s with rx_buf := m, rx_idx := s.rx_len }
    | none => .fault .bufferIndex

/-- BODY, `BYTE D` (R89, R102, R103): arithmetic on mathematical integers (00_scope.md R13). -/
def bodyByte (d : Byte) (s : State) : Result :=
  if s.rx_idx.toNat + 1 < s.rx_len.toNat then bodyMiddle d s else bodyLast d s

/-- LEN or BODY, `TIMEOUT` (R104): the partial frame is discarded. -/
def frameTimeout (s : State) : Result := .next (raiseDrop .readTimeout (.index s.rx_idx) s)

/-- DELIVER (R105): the frame record of R25 is transferred to CON. -/
def deliver (s : State) : Result :=
  if s.rx_len.toNat < Config.minLen then .fault .frameTooShort
  else
    match foRecord (rxRead s) s.rx_len with
    | some f => .next { s with delivered := s.delivered ++ [f], rx_state := .hunt }
    | none => .fault .bufferIndex

end Sys2Proof.Machine
end

