-- ==== Sys2Proof/Machine/Scanner.lean ====
section
/-! DEFINITION. The scanner's rules in HUNT and SEEN1 (41_sync_scanner.md R93, R94, R96, R97). -/

namespace Sys2Proof.Machine

/-- HUNT, `BYTE D` (R93). -/
def huntByte (d : Byte) (s : State) : Result :=
  if d = Config.marker then .next { s with rx_state := .acq }
  else .next (diag .unsyncedByte (.byte d) s)

/-- SEEN1, `BYTE 0xAA` (R96): the marker is confirmed, ownership stays with RX. -/
def markerConfirmed (s : State) : Result := .next { s with rx_state := .len }

/-- SEEN1, `BYTE D` with `D ≠ 0xAA` (R97): the byte is consumed and not examined again. -/
def falseStart (d : Byte) (s : State) : Result :=
  andThen (release .rx s) fun s => .next { diag .falseStart (.byte d) s with rx_state := .hunt }

/-- SEEN1, `BYTE D` (R89, R96, R97). -/
def seen1Byte (d : Byte) (s : State) : Result :=
  if d = Config.marker then markerConfirmed s else falseStart d s

/-- HUNT or SEEN1, `TIMEOUT` (R94): no state changes and nothing is logged. -/
def scanTimeout (s : State) : Result := .next s

end Sys2Proof.Machine
end

