-- ==== Sys2Proof/Machine/RxEvents.lean ====
section
/-! DEFINITION. The meanings of the four RX operations, by RX state (41_sync_scanner.md R88 to R92). In ACQ, OUT and
FATAL the RX step is not enabled and the event waits at its port: nothing changes (R88, R95, 42_frame_reader.md R105,
60_exceptions.md R125; log entry 10). -/

namespace Sys2Proof.Machine

/-- `BYTE D` (R89). -/
def execByte (d : Byte) (s : State) : Result :=
  match s.rx_state with
  | .hunt => huntByte d s
  | .seen1 => seen1Byte d s
  | .len => lenByte d s
  | .body => bodyByte d s
  | .acq | .out | .fatal => .next s

/-- `TIMEOUT` (R90). -/
def execTimeout (s : State) : Result :=
  match s.rx_state with
  | .hunt | .seen1 => scanTimeout s
  | .len | .body => frameTimeout s
  | .acq | .out | .fatal => .next s

/-- `ERROR` (R91): fatal in every state in which RX reads. -/
def execError (s : State) : Result :=
  if rxEvReady s then .next (raiseFatal .error s) else .next s

/-- `CLOSED` (R92): fatal in every state in which RX reads. -/
def execClosed (s : State) : Result :=
  if rxEvReady s then .next (raiseFatal .closed s) else .next s

end Sys2Proof.Machine
end

