-- ==== Sys2Proof/Machine/TxCommands.lean ====
section
/-! DEFINITION. The meanings of the TX commands: what TX does when it accepts one in IDLE (43_frame_encoder.md R109 to
R113). In any other TX state the record waits at its port: nothing changes (R109; log entry 10). -/

namespace Sys2Proof.Machine

/-- `ENCODE` (R110): latched whole, its checks come after ownership is granted. -/
def execEncode (serr : Bool) (n : Byte) (msgop : U16) (hdr : HdrBytes) (pay : List Byte) (s : State) : Result :=
  if cmdReady s then .next (latchCommand (encodeRecord serr n msgop hdr pay) s) else .next s

/-- `RAW` (R111). -/
def execRaw (m : Byte) (bytes : List Byte) (s : State) : Result :=
  if cmdReady s then .next (latchCommand (rawRecord m bytes) s) else .next s

/-- `CLOSE` (R112): the outbound path exits for good. -/
def execClose (s : State) : Result :=
  if cmdReady s then .next { txStatus .closedOk s with tx_state := .closed } else .next s

/-- An ILLEGAL record (R113): discarded whole, whatever it holds, and TX stays IDLE. -/
def execIllegal (_r : CmdRecord) (s : State) : Result :=
  if cmdReady s then .next (txStatus .illegalCmd s) else .next s

end Sys2Proof.Machine
end

