-- ==== Sys2Proof/Machine/Dispatch.lean ====
section
/-! DEFINITION. One arm per constructor of Instr, each one direct call of its meaning. -/

namespace Sys2Proof.Machine

def exec (i : Instr) (s : State) : Host.Outcome State Fault Refusal :=
  match i with
  | .byte d => Sys2Proof.Machine.execByte d s
  | .timeout => Sys2Proof.Machine.execTimeout s
  | .error => Sys2Proof.Machine.execError s
  | .closed => Sys2Proof.Machine.execClosed s
  | .encode serr n msgop hdr pay => Sys2Proof.Machine.execEncode serr n msgop hdr pay s
  | .raw m bytes => Sys2Proof.Machine.execRaw m bytes s
  | .close => Sys2Proof.Machine.execClose s
  | .illegal r => Sys2Proof.Machine.execIllegal r s

end Sys2Proof.Machine
end

