-- ==== Sys2Proof/Machine/Turns.lean ====
section
/-! DEFINITION. The turns of the interleaving (00_scope.md R7, 20_memory.md R48): an agent whose turn it is takes the one
step its state enables, and waits where none is enabled (60_exceptions.md R138; log entry 1). RX and TX fetch their
operation from the head of their input port. -/

namespace Sys2Proof.Machine

/-- RX's fetch: where `rx_ev_ready` and SRC offers a word, the word is consumed and its operation runs (R88). -/
def rxStep (s : State) : Result :=
  if rxEvReady s then
    match s.rx_ev with
    | w :: ws => exec (decodeEvent w) (takeEvent w ws s)
    | [] => .next s
  else .next s

/-- RX's turn: DELIVER in OUT when CON is ready (42_frame_reader.md R105), otherwise the RX step. -/
def rxTurn (foReady : Bool) (s : State) : Result :=
  if foValid s then (if foReady then deliver s else .next s) else rxStep s

/-- TX's fetch: ACCEPT, where `cmd_ready` and CMD offers a record (43_frame_encoder.md R109). -/
def acceptStep (s : State) : Result :=
  match s.cmd with
  | r :: rs => exec (decodeCommand r) (takeRecord rs s)
  | [] => .next s

/-- TX's turn: the step of its state (43_frame_encoder.md R109, R114, R120). In EMIT it needs SNK's answer; in ACQ it waits
for the grant; in CLOSED it has exited. -/
def txTurn (ack : Option Ack) (s : State) : Result :=
  match s.tx_state with
  | .idle => acceptStep s
  | .enc => encStep s
  | .emit =>
    match ack with
    | some a => emitStep a s
    | none => .next s
  | .acq | .closed => .next s

/-- One turn. While `rst` is asserted every step of the block's agents is the reset step: reset takes precedence over
every step (60_exceptions.md R130 (d), 70_reset_and_hazards.md R141). -/
def takeTurn (t : Turn) (s : State) : Result :=
  match t with
  | .host op => hostTurn op s
  | .rx foReady => if s.rst then .next (resetBlock s) else rxTurn foReady s
  | .tx ack => if s.rst then .next (resetBlock s) else txTurn ack s
  | .arb choice => if s.rst then .next (resetBlock s) else .next (arbTurn choice s)

/-- The next turn of the schedule; with none left no agent steps and every piece of state is kept (log entry 1). -/
def nextTurn (s : State) : Result :=
  match s.sched with
  | [] => .next s
  | t :: ts => takeTurn t { s with sched := ts }

/-- An input placed at the head of its port, with `rst` low and the turn of the agent that takes it next (log entry 2). -/
def placeInput (s : State) : Input → State
  | .ev w => { s with rx_ev := w :: s.rx_ev, sched := .rx false :: s.sched, rst := false }
  | .cmd r => { s with cmd := r :: s.cmd, sched := .tx none :: s.sched, rst := false }

end Sys2Proof.Machine
end

