-- ==== Sys2Proof/Machine/Step.lean ====
section
/-! DEFINITION. One step of the machine: the next turn of the interleaving (Machine/Turns.lean). -/

namespace Sys2Proof.Machine

/-- One atomic step of one agent (00_scope.md R7, 20_memory.md R48). -/
def step (s : State) : Host.Outcome State Fault Refusal := nextTurn s

/-- The instruction of a word of spec/opcode_table.json offered at its port, with the next turn given to the agent that
takes it, so that the next step of a block ready for it runs exactly it (log entries 2 and 12). -/
def State.withFetchWord (s : State) (nbits w : Nat) : State :=
  match tableInput nbits w with
  | some i => placeInput s i
  | none => s

end Sys2Proof.Machine
end

