-- ==== Sys2Proof/Machine/Codes.lean ====
section
/-! DEFINITION. The numbers the spec gives the state registers, the status ports and the diagnostic codes
(10_state.md R20, R24, R26, R30, R33; 60_exceptions.md R123). -/

namespace Sys2Proof.Machine

/-- R20, the column `value`. -/
def rxStateCode : RxState → BitVec 3
  | .hunt => 0 | .acq => 1 | .seen1 => 2 | .len => 3 | .body => 4 | .out => 5 | .fatal => 6

/-- R26, the column `value`. -/
def txStateCode : TxState → BitVec 3
  | .idle => 0 | .acq => 1 | .enc => 2 | .emit => 3 | .closed => 4

/-- R30. -/
def ownerCode : Owner → BitVec 2
  | .none => 0 | .rx => 1 | .tx => 2

/-- R24. -/
def rxFatalCode : RxFatal → BitVec 2
  | .none => 0 | .error => 1 | .closed => 2

/-- R33. -/
def connStateCode : ConnState → BitVec 2
  | .running => 0 | .draining => 1 | .stopped => 2

/-- R123, first table. -/
def diagCodeNumber : DiagCode → BitVec 4
  | .unsyncedByte => 0x1 | .falseStart => 0x2 | .shortLength => 0x3 | .readTimeout => 0x4
  | .checksumMismatch => 0x5 | .fatalReadError => 0x6 | .fatalClosed => 0x7

/-- R123, second table. -/
def txStatusNumber : TxStatus → BitVec 4
  | .txDone => 0x0 | .encErrSerialize => 0x1 | .encErrLength => 0x2 | .txWriteError => 0x3
  | .illegalCmd => 0x4 | .closedOk => 0x5

end Sys2Proof.Machine
end

