-- ==== Sys2Proof/Machine/Ports.lean ====
section
/-! DEFINITION. The block's output ports as one record (00_scope.md R8): each is a function of the architectural state
(10_state.md R17, R32, R33). The two event outputs, `diag` and `tx_status`, are the records that a step appends to
`diag_log` and `txs_log` (10_state.md R38). -/

namespace Sys2Proof.Machine

/-- The level and handshake outputs of 00_scope.md R8, with the widths it gives them. -/
structure Outputs where
  rx_ev_ready : Bool
  fo_valid : Bool
  fo : Option FoFrame
  cmd_ready : Bool
  tx_valid : Bool
  tx_byte : Option Byte
  owner : BitVec 2
  rx_fatal : BitVec 2
  conn_state : BitVec 2
  deriving DecidableEq, Repr

/-- What the output ports show in a state. -/
def outputs (s : State) : Outputs where
  rx_ev_ready := rxEvReady s
  fo_valid := foValid s
  fo := fo s
  cmd_ready := cmdReady s
  tx_valid := txValid s
  tx_byte := txByte s
  owner := ownerCode s.owner
  rx_fatal := rxFatalCode s.rx_fatal
  conn_state := connStateCode (connState s)

end Sys2Proof.Machine
end

