-- ==== Sys2Proof/Machine/Pseudo.lean ====
section
/-! DEFINITION. The pseudo-inputs and the textual syntax of 30_encoding.md R80 and R81, and the checksum candidate of
40_checksum.md R87. The machine uses none of them: they are the spec's way to write inputs, and a candidate it calls not
normative. -/

namespace Sys2Proof.Machine

/-! ### Pseudo-inputs (30_encoding.md R81) -/

/-- `BYTES b0 b1 ... bk`. -/
def bytesIn (bs : List Byte) : List EventWord := bs.map (eventWord 0#2)

/-- The bytes `[L, h0, ..., h7, p0, ..., p(n−1)]` of a frame whose header is taken as it stands. -/
def plainBody (hdr : HdrBytes) (pay : List Byte) : List Byte :=
  BitVec.ofNat 8 (frameLength pay.length) :: hdr.toList ++ pay

/-- `FRAMEIN hdr=... payload=...`: the wire image of a valid frame. -/
def frameIn (hdr : HdrBytes) (pay : List Byte) : List EventWord :=
  bytesIn (wireImage (withChecksum (plainBody hdr pay)))

/-- `SEND hdr payload op`: an `ENCODE` with `serr` clear. -/
def sendRecord (hdr : HdrBytes) (pay : List Byte) (op : U16) : CmdRecord :=
  encodeRecord false (BitVec.ofNat 8 pay.length) op hdr pay

/-- `RELAY bytes`. -/
def relayRecord (bytes : List Byte) : CmdRecord := rawRecord (BitVec.ofNat 8 bytes.length) bytes

/-! ### Textual syntax (30_encoding.md R80) -/

/-- A value in hexadecimal with `0x` and a digit for each four bits. -/
def hexText {w : Nat} (v : BitVec w) : String := "0x" ++ v.toHex

/-- A byte list in brackets. -/
def listText (bs : List Byte) : String := "[" ++ String.intercalate "," (bs.map hexText) ++ "]"

/-- An input as R80 writes it. R80 has no text for an illegal record: its descriptor and data are written instead. -/
def instrText : Instr → String
  | .byte d => "BYTE " ++ hexText d
  | .timeout => "TIMEOUT"
  | .error => "ERROR"
  | .closed => "CLOSED"
  | .encode serr _ msgop hdr pay =>
    "ENCODE op=" ++ hexText msgop ++ " hdr=" ++ listText hdr.toList ++ " payload=" ++ listText pay
      ++ (if serr then " serr" else "")
  | .raw _ bytes => "RAW " ++ listText bytes
  | .close => "CLOSE"
  | .illegal r => "ILLEGAL " ++ hexText r.desc ++ " " ++ listText r.data

/-! ### The checksum candidate (40_checksum.md R87) -/

/-- One bit of the candidate. -/
def crcBit (crc : U16) : U16 :=
  if crc.getLsbD 15 then (crc <<< 1) ^^^ 0x1021#16 else crc <<< 1

/-- One byte of the candidate. -/
def crcByte (crc : U16) (b : Byte) : U16 :=
  crcBit (crcBit (crcBit (crcBit (crcBit (crcBit (crcBit (crcBit (crc ^^^ (zext 16 b <<< 8)))))))))

/-- `crc16_xmodem`: not normative, from general knowledge (R87; log entry 13). -/
def crc16Xmodem (bytes : List Byte) : U16 := bytes.foldl crcByte 0#16

end Sys2Proof.Machine
end

