-- ==== Sys2Proof/Safety.lean ====
section
/-! DEFINITION. What holds of every safe state of the block, in the terms claims use: the ownership invariant of
10_state.md R31, the bounds of R22 and R29, and what the buffers hold while a rule may read them (R23, R28, R106). -/

namespace Sys2Proof.Machine

/-- A latched command that TX can assemble: an `ENCODE` or a `RAW` (43_frame_encoder.md R110, R111, R114). -/
def isFrameCommand : Instr → Bool
  | .encode .. | .raw .. => true
  | .byte _ | .timeout | .error | .closed | .close | .illegal _ => false

/-- The RX states in which RX holds ownership (10_state.md R20, R31). -/
def rxHolds : RxState → Bool
  | .seen1 | .len | .body => true
  | .hunt | .acq | .out | .fatal => false

/-- The TX states in which TX holds ownership (10_state.md R26, R31). -/
def txHolds : TxState → Bool
  | .enc | .emit => true
  | .idle | .acq | .closed => false

/-- The bytes 0..n−1 of an array are all written: none of them holds a value from before the last reset. -/
def Written (m : Memory) (n : Nat) : Prop := ∀ a, a < n → (memRead m a).isSome = true

/-- The invariant of the block: it holds right after reset and every step keeps it. -/
structure Inv (s : State) : Prop where
  /-- RXBUF is in canonical form. -/
  rxWf : Memory.wf s.rx_buf = true
  /-- TXBUF is in canonical form. -/
  txWf : Memory.wf s.tx_buf = true
  /-- RXBUF has the bytes 0..254 only (20_memory.md R39). -/
  rxBounds : ∀ a, Config.rxBufSize ≤ a → memRead s.rx_buf a = none
  /-- TXBUF has the bytes 0..256 only (20_memory.md R39). -/
  txBounds : ∀ a, Config.txBufSize ≤ a → memRead s.tx_buf a = none
  /-- R31, first half. -/
  rxOwns : s.owner = .rx ↔ rxHolds s.rx_state = true
  /-- R31, second half. -/
  txOwns : s.owner = .tx ↔ txHolds s.tx_state = true
  /-- R22: in BODY `1 ≤ rx_idx < rx_len`, the length is legal, and the bytes counted by `rx_idx` are stored. -/
  body : s.rx_state = .body →
    Config.minLen ≤ s.rx_len.toNat ∧ 1 ≤ s.rx_idx.toNat ∧ s.rx_idx.toNat < s.rx_len.toNat ∧
    Written s.rx_buf s.rx_idx.toNat ∧ memRead s.rx_buf 0 = some s.rx_len
  /-- R103, R106: the frame in OUT has a legal length, is stored whole, and passed the verifier. -/
  out : s.rx_state = .out →
    Config.minLen ≤ s.rx_len.toNat ∧ Written s.rx_buf s.rx_len.toNat ∧
    memRead s.rx_buf 0 = some s.rx_len ∧ ckOk (rxRead s) s.rx_len = some true
  /-- R24, R125: a cause is recorded exactly in FATAL. -/
  fatal : s.rx_fatal = .none ↔ s.rx_state ≠ .fatal
  /-- R27, R114: the command TX waits with, or is to assemble, is an `ENCODE` or a `RAW`. -/
  pending : s.tx_state = .acq ∨ s.tx_state = .enc → isFrameCommand (decodeCommand s.tx_cmd) = true
  /-- R28, R29: in EMIT the image is stored whole, begins with the marker, and has a byte left to emit. -/
  emit : s.tx_state = .emit →
    2 ≤ s.tx_cnt.toNat ∧ s.tx_cnt.toNat ≤ Config.txBufSize ∧ s.tx_idx.toNat < s.tx_cnt.toNat ∧
    Written s.tx_buf s.tx_cnt.toNat ∧ readRange (memRead s.tx_buf) 0 2 = some markerBytes

/-- The machine after reset with an environment: what SRC and CMD will deliver, and the turns to come (log entry 2). -/
def bootWith (evs : List EventWord) (cmds : List CmdRecord) (turns : List Turn) : State :=
  { State.reset with rx_ev := evs, cmd := cmds, sched := turns }

/-- A run of `k` steps. -/
def runs (k : Nat) (s : State) : Result := Host.Core.run Sys2Proof.core k s

/-- The event words, TIMEOUTs apart, hold no two consecutive `BYTE 0xAA` (41_sync_scanner.md R98); `afterMarker` says that
the word before them was one. -/
def noMarkerPair (afterMarker : Bool) : List EventWord → Bool
  | [] => true
  | w :: ws =>
    match decodeEvent w with
    | .timeout => noMarkerPair afterMarker ws
    | .byte d => if d = Config.marker then !afterMarker && noMarkerPair true ws else noMarkerPair false ws
    | _ => noMarkerPair false ws

/-- The turns in which RX takes `n` events of a frame from HUNT with a grant after the first one: RX, the grant, and RX for
every other event (42_frame_reader.md R108). -/
def frameTurns (n : Nat) : List Turn :=
  match n with
  | 0 => []
  | k + 1 => .rx false :: .arb .rx :: List.replicate k (.rx false)

/-- The turns in which TX emits `n` bytes that SNK answers OK. -/
def emitTurns (n : Nat) : List Turn := List.replicate n (.tx (some .ok))

/-- A round in which every agent gets its turn, CON accepts and SNK answers (60_exceptions.md R139, R140). -/
def fairRound (choice : Grantee) (ack : Ack) : List Turn := [.tx (some ack), .arb choice, .rx true]

/-- `n` such rounds. -/
def fairRounds (choice : Grantee) (ack : Ack) : Nat → List Turn
  | 0 => []
  | n + 1 => fairRound choice ack ++ fairRounds choice ack n

end Sys2Proof.Machine
end

