-- ==== Sys2Proof/Certificates/Slice0/Obligations.lean ====
section
/-! DEFINITION. The statements for the provers, one `def Obligations.<Name> : Prop` each, listed in OBLIGATIONS.json.
Where a statement writes a next state out as an update of `s`, every field it does not name is as it was in `s`: every
register, both buffers, every history, every port and the schedule. `rxRead` and `txRead` are the machine's own reads of one
byte of RXBUF and of TXBUF. -/

open Sys2Proof Sys2Proof.Machine

/-! ### Decoding and encoding -/

/-- R68 with the selection of R67: the status bits select, and the data bits matter for status 00 only. -/
def Obligations.EventWordsDecodeByStatus : Prop :=
  ∀ (st : BitVec 2) (d : Byte),
    (st = 0#2 → decodeEvent (st ++ d) = .byte d) ∧ (st = 1#2 → decodeEvent (st ++ d) = .timeout) ∧
    (st = 2#2 → decodeEvent (st ++ d) = .error) ∧ (st = 3#2 → decodeEvent (st ++ d) = .closed)

/-- R75, its four cases in its order, with the descriptor's fields written as bit ranges. -/
def Obligations.CommandDecoderFollowsItsTests : Prop :=
  ∀ r : CmdRecord,
    let isEncode := r.desc.extractLsb' 30 2 = 0#2 ∧ r.desc.extractLsb' 24 5 = 0#5 ∧
      r.data.length = 8 + (r.desc.extractLsb' 16 8).toNat
    let isRaw := r.desc.extractLsb' 30 2 = 1#2 ∧ r.desc.extractLsb' 8 22 = 0#22 ∧
      r.data.length = (r.desc.extractLsb' 0 8).toNat
    let isClose := r.desc = 0x80000000#32 ∧ r.data = []
    (isEncode → ∃ h0 h1 h2 h3 h4 h5 h6 h7 pay, r.data = [h0, h1, h2, h3, h4, h5, h6, h7] ++ pay ∧
      decodeCommand r = .encode (r.desc.getLsbD 29) (r.desc.extractLsb' 16 8) (r.desc.extractLsb' 0 16)
        ⟨h0, h1, h2, h3, h4, h5, h6, h7⟩ pay) ∧
    (¬isEncode → isRaw → decodeCommand r = .raw (r.desc.extractLsb' 0 8) r.data) ∧
    (¬isEncode → ¬isRaw → isClose → decodeCommand r = .close) ∧
    (¬isEncode → ¬isRaw → ¬isClose → decodeCommand r = .illegal r)

/-- Every well-formed operation, with every operand at every value its encoding admits, decodes from its encoding. -/
def Obligations.DecodeOfEncode : Prop := ∀ i : Instr, i.wellFormed = true → decode (encode i) = i

/-- No bit of a command record is dropped: encoding what was decoded gives the record back. For an illegal record, for which
R75 answers ILLEGAL with no operand, that is so because the model's operation carries the record (log entry 15). -/
def Obligations.EncodeOfDecodedRecord : Prop := ∀ r : CmdRecord, encode (decodeCommand r) = .cmd r

/-- Whatever stands at either port, what the decoder answers is a well-formed operation. -/
def Obligations.DecodedIsWellFormed : Prop := ∀ p : Input, (decode p).wellFormed = true

/-- The records R74 calls illegal are exactly those the decoder of R75 answers ILLEGAL for. -/
def Obligations.IllegalRecordsExactly : Prop := ∀ r : CmdRecord, decodeCommand r = .illegal r ↔ r.isIllegal = true

/-- A few words written out from the encodings of 30_encoding.md, V1 and V4, one of each family. -/
def Obligations.SampleWordsDecode : Prop :=
  decodeEvent 0b0010101010#10 = .byte 0xAA#8 ∧ decodeEvent 0b0110101010#10 = .timeout ∧
  decodeEvent 0b1010101010#10 = .error ∧ decodeEvent 0b1111111111#10 = .closed ∧
  decodeCommand ⟨0b00100000000000010000000000110001#32, [3, 0xFE, 0xFF, 0xFE, 0, 0, 1, 0x1C, 2]⟩ =
    .encode true 1 0x0031 ⟨3, 0xFE, 0xFF, 0xFE, 0, 0, 1, 0x1C⟩ [2] ∧
  decodeCommand ⟨0b01000000000000000000000000000010#32, [0xAA, 5]⟩ = .raw 2 [0xAA, 5] ∧
  decodeCommand ⟨0b10000000000000000000000000000000#32, []⟩ = .close ∧
  decodeCommand ⟨0b11000000000000000000000000000000#32, []⟩ = .illegal ⟨0xC0000000#32, []⟩

/-! ### The RX operations -/

/-- R93: `BYTE` in HUNT. -/
def Obligations.ByteInHunt : Prop :=
  ∀ (d : Byte) (s : State), s.rx_state = .hunt →
    exec (.byte d) s =
      .next (if d = 0xAA#8 then { s with rx_state := .acq }
        else { s with diag_log := s.diag_log ++ [(.unsyncedByte, .byte d)] })

/-- R96: `BYTE 0xAA` in SEEN1; ownership stays as it is. -/
def Obligations.SecondMarkerByteConfirms : Prop :=
  ∀ s : State, s.rx_state = .seen1 → exec (.byte 0xAA#8) s = .next { s with rx_state := .len }

/-- R97: `BYTE D`, `D ≠ 0xAA`, in SEEN1, where RX holds the ownership that `release(RX)` requires. -/
def Obligations.FalseStartReleases : Prop :=
  ∀ (d : Byte) (s : State), s.rx_state = .seen1 → s.owner = .rx → d ≠ 0xAA#8 →
    exec (.byte d) s =
      .next { s with owner := .none, diag_log := s.diag_log ++ [(.falseStart, .byte d)], rx_state := .hunt }

/-- R100: an accepted length byte. -/
def Obligations.LengthByteAccepted : Prop :=
  ∀ (d : Byte) (s : State), s.rx_state = .len → 11 ≤ d.toNat →
    ∃ (t : State) (m : Memory),
      exec (.byte d) s = .next t ∧ t = { s with rx_len := d, rx_buf := m, rx_idx := 1#8, rx_state := .body } ∧
      rxRead t 0 = some d ∧ ∀ a, a ≠ 0 → rxRead t a = rxRead s a

/-- R101: a length byte below 11, with the drop of R124. -/
def Obligations.ShortLengthDropped : Prop :=
  ∀ (d : Byte) (s : State), s.rx_state = .len → d.toNat < 11 →
    exec (.byte d) s =
      .next { s with
        diag_log := s.diag_log ++ [(.shortLength, .byte d)], rx_state := .hunt,
        owner := if s.owner = .rx then .none else s.owner }

/-- R102: a frame byte that is not the last; `rx_idx` goes up by one and does not wrap. -/
def Obligations.BodyByteStored : Prop :=
  ∀ (d : Byte) (s : State), s.rx_state = .body → s.rx_idx.toNat + 1 < s.rx_len.toNat →
    ∃ (t : State) (m : Memory) (k : Byte),
      exec (.byte d) s = .next t ∧ t = { s with rx_buf := m, rx_idx := k } ∧ k.toNat = s.rx_idx.toNat + 1 ∧
      rxRead t s.rx_idx.toNat = some d ∧ ∀ a, a ≠ s.rx_idx.toNat → rxRead t a = rxRead s a

/-- R103 with R83: the last frame byte, the verdict, and the release in both outcomes, from every state in BODY in which RX
holds the link that `release(RX)` requires and the length is one that LEN accepts. -/
def Obligations.LastByteVerified : Prop :=
  ∀ (d : Byte) (s : State), s.rx_state = .body → s.owner = .rx → 11 ≤ s.rx_len.toNat →
    s.rx_idx.toNat + 1 = s.rx_len.toNat →
    ∃ (t : State) (m : Memory) (bs : List Byte) (hi : Byte),
      bs.length = s.rx_len.toNat - 2 ∧ (∀ i, i < s.rx_len.toNat - 2 → rxRead s i = bs[i]?) ∧
      rxRead s (s.rx_len.toNat - 2) = some hi ∧
      exec (.byte d) s = .next t ∧
      t =
        (if Config.checksum16 bs = be16 hi d then
          { s with rx_buf := m, rx_idx := s.rx_len, owner := .none, rx_state := .out }
        else
          { s with
            rx_buf := m, rx_idx := s.rx_len, owner := .none, rx_state := .hunt,
            diag_log := s.diag_log ++ [(.checksumMismatch, .sums (be16 hi d) (Config.checksum16 bs))] }) ∧
      rxRead t s.rx_idx.toNat = some d ∧ ∀ a, a ≠ s.rx_idx.toNat → rxRead t a = rxRead s a

/-- R94: a timeout in HUNT or SEEN1 changes nothing. -/
def Obligations.TimeoutWhileScanning : Prop :=
  ∀ s : State, s.rx_state = .hunt ∨ s.rx_state = .seen1 → exec .timeout s = .next s

/-- R104: a timeout in LEN or BODY drops the attempt, its info the value of `rx_idx`. -/
def Obligations.TimeoutInFrameDrops : Prop :=
  ∀ s : State, s.rx_state = .len ∨ s.rx_state = .body →
    exec .timeout s =
      .next { s with
        diag_log := s.diag_log ++ [(.readTimeout, .index s.rx_idx)], rx_state := .hunt,
        owner := if s.owner = .rx then .none else s.owner }

/-- R91 with R125: an error in any state in which RX reads. -/
def Obligations.ErrorEndsInbound : Prop :=
  ∀ s : State, s.rx_state = .hunt ∨ s.rx_state = .seen1 ∨ s.rx_state = .len ∨ s.rx_state = .body →
    exec .error s =
      .next { s with
        diag_log := s.diag_log ++ [(.fatalReadError, .none)], rx_fatal := .error, rx_state := .fatal,
        owner := if s.owner = .rx then .none else s.owner }

/-- R92 with R125: a closed stream in any state in which RX reads. -/
def Obligations.ClosedEndsInbound : Prop :=
  ∀ s : State, s.rx_state = .hunt ∨ s.rx_state = .seen1 ∨ s.rx_state = .len ∨ s.rx_state = .body →
    exec .closed s =
      .next { s with
        diag_log := s.diag_log ++ [(.fatalClosed, .none)], rx_fatal := .closed, rx_state := .fatal,
        owner := if s.owner = .rx then .none else s.owner }

/-! ### The TX commands -/

/-- R110: `ENCODE` in IDLE, whatever its SERR and lengths; the record latched is the one that encodes it. -/
def Obligations.EncodeLatched : Prop :=
  ∀ (serr : Bool) (n : Byte) (op : U16) (hdr : HdrBytes) (pay : List Byte) (s : State), s.tx_state = .idle →
    ∃ r : CmdRecord,
      exec (.encode serr n op hdr pay) s = .next { s with tx_cmd := r, tx_state := .acq } ∧
      r.desc.extractLsb' 30 2 = 0#2 ∧ r.desc.getLsbD 29 = serr ∧ r.desc.extractLsb' 24 5 = 0#5 ∧
      r.desc.extractLsb' 16 8 = n ∧ r.desc.extractLsb' 0 16 = op ∧ r.data = hdr.toList ++ pay

/-- R111: `RAW` in IDLE. -/
def Obligations.RawLatched : Prop :=
  ∀ (m : Byte) (bytes : List Byte) (s : State), s.tx_state = .idle →
    ∃ r : CmdRecord,
      exec (.raw m bytes) s = .next { s with tx_cmd := r, tx_state := .acq } ∧
      r.desc.extractLsb' 30 2 = 1#2 ∧ r.desc.extractLsb' 8 22 = 0#22 ∧ r.desc.extractLsb' 0 8 = m ∧ r.data = bytes

/-- R112: `CLOSE` in IDLE. -/
def Obligations.CloseAccepted : Prop :=
  ∀ s : State, s.tx_state = .idle →
    exec .close s = .next { s with txs_log := s.txs_log ++ [.closedOk], tx_state := .closed }

/-- R113: an illegal record in IDLE: one status, and nothing else. -/
def Obligations.IllegalDiscarded : Prop :=
  ∀ (r : CmdRecord) (s : State), s.tx_state = .idle →
    exec (.illegal r) s = .next { s with txs_log := s.txs_log ++ [.illegalCmd] }

/-- R109, R59: the record offered is the record latched, bit for bit, and it leaves the port. -/
def Obligations.OfferedRecordIsLatched : Prop :=
  ∀ (s : State) (a : Option Ack) (us : List Turn) (r : CmdRecord) (rs : List CmdRecord),
    s.rst = false → s.sched = .tx a :: us → s.tx_state = .idle → s.cmd = r :: rs →
    isFrameCommand (decodeCommand r) = true →
    step s = .next { s with sched := us, cmd := rs, tx_cmd := r, tx_state := .acq }

/-- Where RX or TX is not ready for it an input waits at its port and its operation changes nothing: RX in ACQ, FATAL and,
while CON is not ready, OUT (R88, R95, R105, R125); TX in ACQ and CLOSED and, while SNK does not answer, EMIT (R109, R112,
R120). That `exec` itself answers the same state there is the model's choice (log entry 10). -/
def Obligations.InputsWaitAtTheirPorts : Prop :=
  ∀ (s : State) (us : List Turn), s.rst = false →
    (∀ f, s.rx_state = .acq ∨ s.rx_state = .fatal ∨ (s.rx_state = .out ∧ f = false) → s.sched = .rx f :: us →
      step s = .next { s with sched := us }) ∧
    (∀ w, s.rx_state = .acq ∨ s.rx_state = .fatal ∨ s.rx_state = .out → exec (decodeEvent w) s = .next s) ∧
    (∀ a, s.tx_state = .acq ∨ s.tx_state = .closed ∨ (s.tx_state = .emit ∧ a = none) → s.sched = .tx a :: us →
      step s = .next { s with sched := us }) ∧
    (∀ r, s.tx_state ≠ .idle → exec (decodeCommand r) s = .next s)

/-! ### The arbiter -/

/-- R53 and R54: each grant, where its agent requests, the link is free, and the other does not request or is not chosen. -/
def Obligations.GrantsTakeTheLink : Prop :=
  ∀ (s : State) (c : Grantee) (us : List Turn), s.rst = false → s.sched = .arb c :: us → s.owner = .none →
    (s.rx_state = .acq → s.tx_state ≠ .acq ∨ c = .rx →
      step s = .next { s with sched := us, owner := .rx, rx_state := .seen1 }) ∧
    (s.tx_state = .acq → s.rx_state ≠ .acq ∨ c = .tx →
      step s = .next { s with sched := us, owner := .tx, tx_state := .enc })

/-- R55, its first sentence: with both requests pending each grant is a successor. -/
def Obligations.BothGrantsAdmitted : Prop :=
  ∀ (s : State) (us : List Turn), s.rst = false → s.owner = .none → s.rx_state = .acq → s.tx_state = .acq →
    step { s with sched := .arb .rx :: us } = .next { s with sched := us, owner := .rx, rx_state := .seen1 } ∧
    step { s with sched := .arb .tx :: us } = .next { s with sched := us, owner := .tx, tx_state := .enc }

/-- No grant while the link is held, and none without a request (R53, R54). That the arbiter's turn then passes, using up its
place in the schedule, is the model's choice (log entry 1). -/
def Obligations.NoGrantOtherwise : Prop :=
  ∀ (s : State) (c : Grantee) (us : List Turn), s.rst = false → s.sched = .arb c :: us →
    s.owner ≠ .none ∨ (s.rx_state ≠ .acq ∧ s.tx_state ≠ .acq) →
    step s = .next { s with sched := us }

/-! ### Assembly and emission -/

/-- R115, its success: the image, byte by byte, and the rest of TXBUF as before. -/
def Obligations.EncodeAssembled : Prop :=
  ∀ (s : State) (a : Option Ack) (us : List Turn) (n : Byte) (op : U16) (h : HdrBytes) (pay : List Byte),
    s.rst = false → s.sched = .tx a :: us → s.tx_state = .enc →
    decodeCommand s.tx_cmd = .encode false n op h pay → n.toNat ≤ 244 →
    let L := 1 + 8 + n.toNat + 2
    let body := [BitVec.ofNat 8 L, h.h0, h.h1, h.h2, h.h3, hi8 op, lo8 op, h.h6, h.h7] ++ pay
    let c := Config.checksum16 body
    let img := [0xAA#8, 0xAA#8] ++ body ++ [hi8 c, lo8 c]
    ∃ (t : State) (m : Memory) (cnt : BitVec 9),
      step s = .next t ∧
      t = { s with sched := us, tx_buf := m, tx_cnt := cnt, tx_idx := 0#9, tx_state := .emit } ∧
      cnt.toNat = L + 2 ∧ img.length = L + 2 ∧
      (∀ i, i < L + 2 → txRead t i = img[i]?) ∧ ∀ i, L + 2 ≤ i → txRead t i = txRead s i

/-- R115 and R117, the two failures in their order, with R126: no byte of TXBUF is touched. TX holds the ownership that
`release(TX)` requires. -/
def Obligations.EncodeFailures : Prop :=
  ∀ (s : State) (a : Option Ack) (us : List Turn) (serr : Bool) (n : Byte) (op : U16) (h : HdrBytes) (pay : List Byte),
    s.rst = false → s.sched = .tx a :: us → s.tx_state = .enc → s.owner = .tx →
    decodeCommand s.tx_cmd = .encode serr n op h pay → serr = true ∨ 244 < n.toNat →
    step s =
      .next { s with
        sched := us, owner := .none, tx_state := .idle,
        txs_log := s.txs_log ++ [if serr then .encErrSerialize else .encErrLength] }

/-- R119: a raw frame behind the marker, verbatim. -/
def Obligations.RawAssembled : Prop :=
  ∀ (s : State) (a : Option Ack) (us : List Turn) (n : Byte) (bytes : List Byte),
    s.rst = false → s.sched = .tx a :: us → s.tx_state = .enc → decodeCommand s.tx_cmd = .raw n bytes →
    let img := [0xAA#8, 0xAA#8] ++ bytes
    ∃ (t : State) (m : Memory) (cnt : BitVec 9),
      step s = .next t ∧
      t = { s with sched := us, tx_buf := m, tx_cnt := cnt, tx_idx := 0#9, tx_state := .emit } ∧
      cnt.toNat = n.toNat + 2 ∧ img.length = n.toNat + 2 ∧
      (∀ i, i < n.toNat + 2 → txRead t i = img[i]?) ∧ ∀ i, n.toNat + 2 ≤ i → txRead t i = txRead s i

/-- R120: the byte offered and SNK's answer are recorded; an ERROR abandons the frame, the last OK finishes it, any other
OK goes one byte further. TX holds the link, and `tx_idx` is an index of TXBUF. -/
def Obligations.EmitOneByte : Prop :=
  ∀ (s : State) (a : Ack) (us : List Turn) (b : Byte),
    s.rst = false → s.sched = .tx (some a) :: us → s.tx_state = .emit → s.owner = .tx →
    txRead s s.tx_idx.toNat = some b →
    step s =
      .next (
        let s' := { s with sched := us, wire_out := s.wire_out ++ [(b, a)] }
        if a = .error then
          { s' with owner := .none, txs_log := s.txs_log ++ [.txWriteError], tx_state := .idle }
        else if s.tx_idx.toNat + 1 = s.tx_cnt.toNat then
          { s' with owner := .none, txs_log := s.txs_log ++ [.txDone], tx_state := .idle }
        else { s' with tx_idx := s.tx_idx + 1#9 })

/-- R116: the caller's opcode bytes reach no frame byte, and frame bytes 5 and 6 are the message's opcode. -/
def Obligations.CallerOpcodeNeverEmitted : Prop :=
  ∀ (n : Byte) (op : U16) (h : HdrBytes) (pay : List Byte) (x y : Byte),
    encodeFrame n op { h with h4 := x, h5 := y } pay = encodeFrame n op h pay ∧
    (encodeFrame n op h pay)[5]? = some (hi8 op) ∧ (encodeFrame n op h pay)[6]? = some (lo8 op)

/-- R122, for `ENCODE`: from IDLE with a free link, one turn to accept, one grant, one ENC step and `N + 13` answered bytes
emit the whole image, in order, under one grant. -/
def Obligations.EncodeEmittedWhole : Prop :=
  ∀ (s : State) (us : List Turn) (r : CmdRecord) (rs : List CmdRecord) (n : Byte) (op : U16) (h : HdrBytes)
    (pay : List Byte),
    s.rst = false → s.tx_state = .idle → s.owner = .none → s.cmd = r :: rs →
    decodeCommand r = .encode false n op h pay → n.toNat ≤ 244 →
    s.sched = [.tx none, .arb .tx, .tx none] ++ emitTurns (n.toNat + 13) ++ us →
    ∃ t, runs (n.toNat + 16) s = .next t ∧
      t.wire_out = s.wire_out ++ (wireImage (encodeFrame n op h pay)).map (fun b => (b, Ack.ok)) ∧
      (wireImage (encodeFrame n op h pay)).length = n.toNat + 13 ∧
      t.txs_log = s.txs_log ++ [.txDone] ∧ t.tx_state = .idle ∧ t.owner = .none ∧ t.cmd = rs ∧ t.sched = us ∧
      t.rx_state = s.rx_state ∧ t.rx_buf = s.rx_buf ∧ t.diag_log = s.diag_log ∧ t.wire_in = s.wire_in

/-- R122, for `RAW`: `M + 2` bytes. -/
def Obligations.RawEmittedWhole : Prop :=
  ∀ (s : State) (us : List Turn) (r : CmdRecord) (rs : List CmdRecord) (n : Byte) (bytes : List Byte),
    s.rst = false → s.tx_state = .idle → s.owner = .none → s.cmd = r :: rs → decodeCommand r = .raw n bytes →
    s.sched = [.tx none, .arb .tx, .tx none] ++ emitTurns (n.toNat + 2) ++ us →
    ∃ t, runs (n.toNat + 5) s = .next t ∧
      t.wire_out = s.wire_out ++ ([0xAA#8, 0xAA#8] ++ bytes).map (fun b => (b, Ack.ok)) ∧
      bytes.length = n.toNat ∧
      t.txs_log = s.txs_log ++ [.txDone] ∧ t.tx_state = .idle ∧ t.owner = .none ∧ t.cmd = rs ∧ t.sched = us ∧
      t.rx_state = s.rx_state ∧ t.rx_buf = s.rx_buf ∧ t.diag_log = s.diag_log ∧ t.wire_in = s.wire_in

/-! ### Reception and delivery -/

/-- R25: the frame record in OUT, field by field, from `rx_buf` and `rx_len`, whose
least value in OUT is 11 (R106); no valid frame in any other state. -/
def Obligations.FrameRecordFields : Prop :=
  ∀ s : State, (s.rx_state ≠ .out → foValid s = false) ∧ (s.rx_state = .out → 11 ≤ s.rx_len.toNat →
    let L := s.rx_len.toNat
    foValid s = true ∧ ∃ f, fo s = some f ∧ f.len = s.rx_len ∧
      f.bytes.length = L ∧ (∀ i, i < L → f.bytes[i]? = rxRead s i) ∧
      rxRead s 1 = some f.origin_subnet ∧ rxRead s 2 = some f.origin_device ∧
      (∃ hi lo, rxRead s 3 = some hi ∧ rxRead s 4 = some lo ∧
        f.origin_device_type.toNat = hi.toNat * 256 + lo.toNat) ∧
      (∃ hi lo, rxRead s 5 = some hi ∧ rxRead s 6 = some lo ∧
        f.opcode.toNat = hi.toNat * 256 + lo.toNat) ∧
      rxRead s 7 = some f.target_subnet ∧ rxRead s 8 = some f.target_device ∧
      f.payload_len.toNat = L - 11 ∧ f.payload.length = L - 11 ∧
      (∀ i, i < L - 11 → f.payload[i]? = rxRead s (9 + i)) ∧
      (∃ hi lo, rxRead s (L - 2) = some hi ∧ rxRead s (L - 1) = some lo ∧
        f.checksum.toNat = hi.toNat * 256 + lo.toNat))

/-- R105: DELIVER transfers the record that `fo` offers, and RX is in HUNT. -/
def Obligations.DeliverTransfers : Prop :=
  ∀ (s : State) (us : List Turn), s.rst = false → s.rx_state = .out → 11 ≤ s.rx_len.toNat → s.sched = .rx true :: us →
    ∃ f, fo s = some f ∧
      step s = .next { s with sched := us, delivered := s.delivered ++ [f], rx_state := .hunt }

/-- R85: whatever `CHECKSUM16` is, a frame of the generator passes the verifier, however the buffer that holds it is read. -/
def Obligations.GeneratedChecksumVerifies : Prop :=
  ∀ (rd : Nat → Option Byte) (L : Byte) (body : List Byte), L.toNat = body.length + 2 →
    (∀ i, i < L.toNat → rd i = (withChecksum body)[i]?) → ckOk rd L = some true

/-- R108: a valid frame taken from HUNT: its `L + 2` BYTE events and one grant bring it to OUT, offered whole, with the link
free and nothing logged. -/
def Obligations.ValidFrameReachesOut : Prop :=
  ∀ (s : State) (us : List Turn) (ws : List EventWord) (L : Byte) (rest : List Byte),
    s.rst = false → s.rx_state = .hunt → s.owner = .none →
    11 ≤ L.toNat → L.toNat = (L :: rest).length + 2 →
    s.rx_ev = bytesIn (wireImage (withChecksum (L :: rest))) ++ ws →
    s.sched = frameTurns (L.toNat + 2) ++ us →
    ∃ t f, runs (L.toNat + 3) s = .next t ∧ t.rx_state = .out ∧ t.owner = .none ∧ fo t = some f ∧
      f.bytes = withChecksum (L :: rest) ∧ t.rx_ev = ws ∧ t.sched = us ∧
      t.wire_in = s.wire_in ++ bytesIn (wireImage (withChecksum (L :: rest))) ∧
      t.diag_log = s.diag_log ∧ t.delivered = s.delivered ∧
      t.tx_state = s.tx_state ∧ t.tx_buf = s.tx_buf ∧ t.txs_log = s.txs_log ∧ t.wire_out = s.wire_out

/-- R103 and R49 over the whole attempt: a frame whose last two bytes are not its checksum is dropped, with one record, and
scanning resumes after the bytes consumed. -/
def Obligations.CorruptFrameDropped : Prop :=
  ∀ (s : State) (us : List Turn) (ws : List EventWord) (L : Byte) (rest : List Byte) (hi lo : Byte),
    s.rst = false → s.rx_state = .hunt → s.owner = .none →
    11 ≤ L.toNat → L.toNat = (L :: rest).length + 2 → be16 hi lo ≠ Config.checksum16 (L :: rest) →
    s.rx_ev = bytesIn (wireImage ((L :: rest) ++ [hi, lo])) ++ ws →
    s.sched = frameTurns (L.toNat + 2) ++ us →
    ∃ t, runs (L.toNat + 3) s = .next t ∧ t.rx_state = .hunt ∧ t.owner = .none ∧ t.rx_ev = ws ∧ t.sched = us ∧
      t.diag_log =
        s.diag_log ++ [(.checksumMismatch, .sums (be16 hi lo) (Config.checksum16 (L :: rest)))] ∧
      t.delivered = s.delivered ∧ t.rx_fatal = s.rx_fatal

/-- R121, on the schedules written here (log entry 1) and with the link free at both blocks: the bytes one block emits for a legal `ENCODE` with `SERR = 0` and `N ≤ 244`, read unaltered by a block whose RX is
in HUNT, are offered there as a frame with the caller's header but for the opcode, and the payload. -/
def Obligations.EncodedFrameIsReceived : Prop :=
  ∀ (a s : State) (r : CmdRecord) (rs : List CmdRecord) (n : Byte) (op : U16) (h : HdrBytes) (pay : List Byte)
    (us vs : List Turn) (ws : List EventWord),
    a.rst = false → a.tx_state = .idle → a.owner = .none → a.cmd = r :: rs →
    decodeCommand r = .encode false n op h pay → n.toNat ≤ 244 →
    a.sched = [.tx none, .arb .tx, .tx none] ++ emitTurns (n.toNat + 13) ++ us →
    ∃ b emitted, runs (n.toNat + 16) a = .next b ∧ b.wire_out = a.wire_out ++ emitted.map (fun x => (x, Ack.ok)) ∧
      (s.rst = false → s.rx_state = .hunt → s.owner = .none → s.rx_ev = bytesIn emitted ++ ws →
        s.sched = frameTurns (n.toNat + 13) ++ vs →
        ∃ t f, runs (n.toNat + 14) s = .next t ∧ t.rx_state = .out ∧ fo t = some f ∧
          f.origin_subnet = h.h0 ∧ f.origin_device = h.h1 ∧ f.origin_device_type = be16 h.h2 h.h3 ∧
          f.opcode = op ∧ f.target_subnet = h.h6 ∧ f.target_device = h.h7 ∧ f.payload = pay ∧
          f.len.toNat = 11 + n.toNat)

/-- R98: events without two consecutive `BYTE 0xAA`, TIMEOUTs apart, never bring RX to LEN and no frame is offered,
whatever CMD offers and in whatever order the agents step. -/
def Obligations.NoMarkerPairNoFrame : Prop :=
  ∀ (evs : List EventWord) (cmds : List CmdRecord) (turns : List Turn) (k : Nat) (t : State),
    noMarkerPair false evs = true → runs k (bootWith evs cmds turns) = .next t →
    t.rx_state ≠ .len ∧ fo t = none ∧ foValid t = false ∧ t.delivered = []

/-! ### Reset and HOST -/

/-- R141, R142: the step in which HOST asserts `rst`. `tx_cmd` becomes some value (log entry 5), each byte of the two buffers
its free value for this reset (log entry 4), and the histories and the ports are kept. That the reset is taken in the very step
that asserts `rst`, and that the model counts it, are its own choices (log entries 11 and 5). -/
def Obligations.ResetTaken : Prop :=
  ∀ (s : State) (us : List Turn), s.sched = .host .reset :: us →
    ∃ (t : State) (c : CmdRecord),
      step s = .next t ∧
      t =
        { s with
          sched := us, rst := true, resets := s.resets + 1,
          rx_state := .hunt, rx_len := 0#8, rx_idx := 0#8, rx_buf := [], rx_fatal := .none,
          tx_state := .idle, tx_cmd := c, tx_buf := [], tx_cnt := 0#9, tx_idx := 0#9, owner := .none } ∧
      (∀ a, a < 255 → rxRead t a = some (Config.resetRxByte t.resets a)) ∧
      (∀ a, a < 257 → txRead t a = some (Config.resetTxByte t.resets a))

/-- R130 (d): while `rst` is asserted the turn of RX, TX or ARB is the reset step, whatever it could have done. The free values
of the buffers and of `tx_cmd` and the count of resets are log entries 4 and 5; that HOST's turn is no reset step is log
entry 11. -/
def Obligations.ResetTakesPrecedence : Prop :=
  ∀ (s : State) (u : Turn) (us : List Turn), s.rst = true → s.sched = u :: us → (∀ op, u ≠ .host op) →
    ∃ (t : State) (c : CmdRecord),
      step s = .next t ∧
      t =
        { s with
          sched := us, resets := s.resets + 1,
          rx_state := .hunt, rx_len := 0#8, rx_idx := 0#8, rx_buf := [], rx_fatal := .none,
          tx_state := .idle, tx_cmd := c, tx_buf := [], tx_cnt := 0#9, tx_idx := 0#9, owner := .none } ∧
      (∀ a, a < 255 → rxRead t a = some (Config.resetRxByte t.resets a)) ∧
      (∀ a, a < 257 → txRead t a = some (Config.resetTxByte t.resets a))

/-- R145: `start()` releases `rst`, and a second one without a reset has no move. That `start()` does nothing but make `rst` low,
and that it is no reset step while `rst` is high, are the model's choices (log entry 11). -/
def Obligations.StartIsSingleUse : Prop :=
  ∀ (s : State) (us : List Turn), s.sched = .host .start :: us →
    (s.rst = true → step s = .next { s with sched := us, rst := false }) ∧
    (s.rst = false → step s = .refused .secondStart)

/-- The rows of R139 for `send()` and for the two steps of `stop()` that act on a port: nothing but the port changes. The
closed stream delivers CLOSED at RX's next read; where among SRC's words it stands is the model's choice (log entry 11). -/
def Obligations.HostOffersAtThePorts : Prop :=
  ∀ (s : State) (us : List Turn) (r : CmdRecord),
    (s.sched = .host (.send r) :: us → step s = .next { s with sched := us, cmd := s.cmd ++ [r] }) ∧
    (s.sched = .host .closeQueue :: us →
      step s = .next { s with sched := us, cmd := s.cmd ++ [⟨0x80000000#32, []⟩] }) ∧
    (s.sched = .host .closeStream :: us → step s = .next { s with sched := us, rx_ev := 0x300#10 :: s.rx_ev })

/-- R131, R145: without a reset RX never leaves FATAL, nor its cause, and TX never leaves CLOSED. -/
def Obligations.TerminalStatesStay : Prop :=
  ∀ (s t : State) (u : Turn) (us : List Turn), s.rst = false → s.sched = u :: us → u ≠ .host .reset →
    step s = .next t →
    (s.rx_state = .fatal → t.rx_state = .fatal ∧ t.rx_fatal = s.rx_fatal) ∧
    (s.tx_state = .closed → t.tx_state = .closed)

/-- R140, on one schedule (log entry 1): under the host duties (CLOSE offered and the stream closed, CON accepting, SNK answering)
rounds in which every agent gets its turn bring any safe state to STOPPED, whichever agent the arbiter prefers and whichever
answer SNK gives throughout. CLOSE is the one record left and CLOSED the next event. -/
def Obligations.StopReachesStopped : Prop :=
  ∀ (s : State) (c : Grantee) (a : Ack), Inv s → s.rst = false →
    (s.rx_state = .fatal ∨ ∃ w ws, s.rx_ev = w :: ws ∧ decodeEvent w = .closed) →
    (s.tx_state = .closed ∨ s.cmd = [closeRecord]) → s.sched = fairRounds c a 300 →
    ∃ t, runs 900 s = .next t ∧ connState t = .stopped

/-! ### The machine as a whole -/

/-- A step runs the event at RX's port: its word leaves the port, is recorded in `wire_in`, and the operation it decodes to
runs (R88). -/
def Obligations.StepRunsOfferedEvent : Prop :=
  ∀ (s : State) (f : Bool) (us : List Turn) (w : EventWord) (ws : List EventWord),
    s.rst = false → s.sched = .rx f :: us → rxEvReady s = true → s.rx_ev = w :: ws →
    (decodeEvent w).wellFormed = true ∧
    step s = exec (decodeEvent w) { s with sched := us, rx_ev := ws, wire_in := s.wire_in ++ [w] }

/-- A step runs the record at TX's port: the record leaves the port and the operation it decodes to runs (R109). -/
def Obligations.StepRunsOfferedRecord : Prop :=
  ∀ (s : State) (a : Option Ack) (us : List Turn) (r : CmdRecord) (rs : List CmdRecord),
    s.rst = false → s.sched = .tx a :: us → cmdReady s = true → s.cmd = r :: rs →
    (decodeCommand r).wellFormed = true ∧
    step s = exec (decodeCommand r) { s with sched := us, cmd := rs }

/-- The invariant holds right after reset, with any environment. -/
def Obligations.InvAtReset : Prop :=
  Inv State.reset ∧ ∀ evs cmds turns, Inv (bootWith evs cmds turns)

/-- Every step keeps the invariant, from every state that has it. -/
def Obligations.StepKeepsInv : Prop := ∀ s t : State, Inv s → step s = .next t → Inv t

/-- From a state with the invariant no step faults, and the only refusal is HOST's second `start()`; and, outside a reset, no
step reads a buffer byte that nothing has written (R23): under any other count of resets, which picks other free values for
those bytes (log entry 4), the step is the same. -/
def Obligations.SafeStatesNeverFault : Prop :=
  ∀ s : State, Inv s →
    ((∃ t, step s = .next t) ∨
      (step s = .refused .secondStart ∧ s.rst = false ∧ ∃ us, s.sched = .host .start :: us)) ∧
    ∀ (u : Turn) (us : List Turn) (t : State) (k : Nat), s.rst = false → s.sched = u :: us → u ≠ .host .reset →
      step s = .next t → step { s with resets := k } = .next { t with resets := k }

/-- R31: in every state reachable from reset. -/
def Obligations.OwnerNamesTheHolder : Prop :=
  ∀ (evs : List EventWord) (cmds : List CmdRecord) (turns : List Turn) (k : Nat) (t : State),
    runs k (bootWith evs cmds turns) = .next t →
    (t.owner = .rx ↔ t.rx_state = .seen1 ∨ t.rx_state = .len ∨ t.rx_state = .body) ∧
    (t.owner = .tx ↔ t.tx_state = .enc ∨ t.tx_state = .emit) ∧
    ¬((t.rx_state = .seen1 ∨ t.rx_state = .len ∨ t.rx_state = .body) ∧ (t.tx_state = .enc ∨ t.tx_state = .emit))

/-- R57: while RX owns the link TX emits no byte, and while TX owns it RX consumes a word in HUNT only. -/
def Obligations.FramesAreAtomicOnTheLink : Prop :=
  ∀ s t : State, Inv s → step s = .next t →
    (s.owner = .rx → t.wire_out = s.wire_out) ∧
    (s.owner = .tx → t.wire_in ≠ s.wire_in → s.rx_state = .hunt)

/-- R128: FATAL is entered only by a step that takes an ERROR or a CLOSED event. -/
def Obligations.OnlyReadFailuresAreFatal : Prop :=
  ∀ s t : State, step s = .next t → s.rx_state ≠ .fatal → t.rx_state = .fatal →
    ∃ w ws, s.rx_ev = w :: ws ∧ t.rx_ev = ws ∧ (decodeEvent w = .error ∨ decodeEvent w = .closed)

/-- R136: outside a reset RX's turn writes no TX state and TX's turn writes no RX state; the link owner is all they share. -/
def Obligations.RxAndTxShareOnlyTheOwner : Prop :=
  ∀ (s t : State) (u : Turn) (us : List Turn), s.rst = false → s.sched = u :: us → step s = .next t →
    (∀ f, u = .rx f →
      t.tx_state = s.tx_state ∧ t.tx_cmd = s.tx_cmd ∧ t.tx_buf = s.tx_buf ∧ t.tx_cnt = s.tx_cnt ∧
      t.tx_idx = s.tx_idx ∧ t.cmd = s.cmd ∧ t.wire_out = s.wire_out ∧ t.txs_log = s.txs_log) ∧
    (∀ a, u = .tx a →
      t.rx_state = s.rx_state ∧ t.rx_len = s.rx_len ∧ t.rx_idx = s.rx_idx ∧ t.rx_buf = s.rx_buf ∧
      t.rx_fatal = s.rx_fatal ∧ t.rx_ev = s.rx_ev ∧ t.wire_in = s.wire_in ∧ t.diag_log = s.diag_log ∧
      t.delivered = s.delivered)

/-- R38, R141: the histories are append-only; no step, a reset among them, removes a record. -/
def Obligations.HistoriesOnlyGrow : Prop :=
  ∀ s t : State, step s = .next t →
    s.wire_in <+: t.wire_in ∧ s.wire_out <+: t.wire_out ∧ s.diag_log <+: t.diag_log ∧ s.txs_log <+: t.txs_log ∧
    s.delivered <+: t.delivered

/-- R33: the value of the `conn_state` port, by the states of the two paths; 3 is unused. -/
def Obligations.ConnStateByPaths : Prop :=
  ∀ s : State,
    ((outputs s).conn_state = 0#2 ↔ s.rx_state ≠ .fatal ∧ s.tx_state ≠ .closed) ∧
    ((outputs s).conn_state = 2#2 ↔ s.rx_state = .fatal ∧ s.tx_state = .closed) ∧
    ((outputs s).conn_state = 1#2 ↔ (s.rx_state = .fatal ↔ s.tx_state ≠ .closed)) ∧
    (outputs s).conn_state ≠ 3#2 ∧ (outputs State.reset).conn_state = 0#2

/-- R32: the handshake outputs and the requests, by the states of the two paths. -/
def Obligations.HandshakeOutputs : Prop :=
  ∀ s : State,
    ((outputs s).rx_ev_ready = true ↔
      s.rx_state = .hunt ∨ s.rx_state = .seen1 ∨ s.rx_state = .len ∨ s.rx_state = .body) ∧
    ((outputs s).fo_valid = true ↔ s.rx_state = .out) ∧ ((outputs s).cmd_ready = true ↔ s.tx_state = .idle) ∧
    ((outputs s).tx_valid = true ↔ s.tx_state = .emit) ∧
    (s.tx_state = .emit → (outputs s).tx_byte = txRead s s.tx_idx.toNat) ∧
    (rxReq s = true ↔ s.rx_state = .acq) ∧ (txReq s = true ↔ s.tx_state = .acq)

/-- The canonical form: two arrays in it with the same written byte, or none, at every index are the same list. -/
def Obligations.EqualContentsEqualArrays : Prop :=
  ∀ m m' : Memory, Memory.wf m = true → Memory.wf m' = true → (∀ a, memRead m a = memRead m' a) → m = m'
end

