-- ==== Sys2Proof/Laws/Bits.lean ====
section
/-! SUPPORT. What each bit-field primitive reads of a word that was built from fields, and that a word is its fields. -/

namespace Sys2Proof

/-- A concatenation as a number. -/
theorem toNat_append_eq {m n : Nat} (x : BitVec m) (y : BitVec n) : (x ++ y).toNat = x.toNat * 2 ^ n + y.toNat := by
  rw [BitVec.toNat_append, ← Nat.shiftLeft_add_eq_or_of_lt y.isLt, Nat.shiftLeft_eq]

/-- A bit range as a number. -/
theorem toNat_field {w : Nat} (x : BitVec w) (lo len : Nat) :
    (x.extractLsb' lo len).toNat = x.toNat / 2 ^ lo % 2 ^ len := by
  rw [BitVec.extractLsb'_toNat, Nat.shiftRight_eq_div_pow]

/-! ### The 16-bit values (00_scope.md R13) -/

theorem be16_toNat (a b : Byte) : (be16 a b).toNat = a.toNat * 256 + b.toNat := toNat_append_eq a b

@[simp] theorem hi8_be16 (a b : Byte) : hi8 (be16 a b) = a := by
  apply BitVec.eq_of_toNat_eq
  have := a.isLt; have := b.isLt
  rw [hi8, toNat_field, be16_toNat]; omega

@[simp] theorem lo8_be16 (a b : Byte) : lo8 (be16 a b) = b := by
  apply BitVec.eq_of_toNat_eq
  have := a.isLt; have := b.isLt
  rw [lo8, toNat_field, be16_toNat]; omega

@[simp] theorem be16_hi8_lo8 (v : U16) : be16 (hi8 v) (lo8 v) = v := by
  apply BitVec.eq_of_toNat_eq
  have := v.isLt
  rw [be16_toNat, hi8, lo8, toNat_field, toNat_field]; omega

/-! ### The event word (30_encoding.md R66) -/

theorem eventWord_toNat (st : BitVec 2) (d : Byte) : (eventWord st d).toNat = st.toNat * 256 + d.toNat :=
  toNat_append_eq st d

@[simp] theorem evStatus_eventWord (st : BitVec 2) (d : Byte) : evStatus (eventWord st d) = st := by
  apply BitVec.eq_of_toNat_eq
  have := st.isLt; have := d.isLt
  rw [evStatus, toNat_field, eventWord_toNat]; omega

@[simp] theorem evData_eventWord (st : BitVec 2) (d : Byte) : evData (eventWord st d) = d := by
  apply BitVec.eq_of_toNat_eq
  have := st.isLt; have := d.isLt
  rw [evData, toNat_field, eventWord_toNat]; omega

/-! ### The descriptors (30_encoding.md R70 to R73) -/

theorem encodeRecord_desc_toNat (serr : Bool) (n : Byte) (op : U16) (h : HdrBytes) (pay : List Byte) :
    (encodeRecord serr n op h pay).desc.toNat = serr.toNat * 2 ^ 29 + n.toNat * 2 ^ 16 + op.toNat := by
  show ((((0#2 ++ BitVec.ofBool serr) ++ 0#5) ++ n) ++ op : BitVec (2 + 1 + 5 + 8 + 16)).toNat = _
  simp only [toNat_append_eq]
  cases serr
  · simp
  · simp; omega

theorem rawRecord_desc_toNat (m : Byte) (bytes : List Byte) :
    (rawRecord m bytes).desc.toNat = 2 ^ 30 + m.toNat := by
  show (((1#2 ++ 0#22) ++ m) : BitVec (2 + 22 + 8)).toNat = _
  simp only [toNat_append_eq]
  simp

/-- Bit 29 as a number. -/
theorem descSerr_toNat (d : Desc) : (descSerr d).toNat = d.toNat / 2 ^ 29 % 2 := by
  rw [descSerr, BitVec.getLsbD, Nat.testBit_eq_decide_div_mod_eq]
  rcases Nat.mod_two_eq_zero_or_one (d.toNat / 2 ^ 29) with h | h <;> rw [h] <;> rfl

theorem encodeRecord_fields (serr : Bool) (n : Byte) (op : U16) (h : HdrBytes) (pay : List Byte) :
    descKind (encodeRecord serr n op h pay).desc = 0#2 ∧ descSerr (encodeRecord serr n op h pay).desc = serr ∧
    descEncReserved (encodeRecord serr n op h pay).desc = 0#5 ∧ descN (encodeRecord serr n op h pay).desc = n ∧
    descMsgop (encodeRecord serr n op h pay).desc = op := by
  have hv := encodeRecord_desc_toNat serr n op h pay
  generalize (encodeRecord serr n op h pay).desc = d at hv ⊢
  have hn := n.isLt
  have ho := op.isLt
  have hs : serr.toNat ≤ 1 := Bool.toNat_le serr
  refine ⟨?_, ?_, ?_, ?_, ?_⟩
  · apply BitVec.eq_of_toNat_eq
    rw [descKind, toNat_field, hv]
    simp only [BitVec.toNat_ofNat]; omega
  · have := descSerr_toNat d
    rw [hv] at this
    have hb : (descSerr d).toNat = serr.toNat := by omega
    revert hb; cases descSerr d <;> cases serr <;> simp
  · apply BitVec.eq_of_toNat_eq
    rw [descEncReserved, toNat_field, hv]
    simp only [BitVec.toNat_ofNat]; omega
  · apply BitVec.eq_of_toNat_eq
    rw [descN, toNat_field, hv]; omega
  · apply BitVec.eq_of_toNat_eq
    rw [descMsgop, toNat_field, hv]; omega

theorem rawRecord_fields (m : Byte) (bytes : List Byte) :
    descKind (rawRecord m bytes).desc = 1#2 ∧ descRawReserved (rawRecord m bytes).desc = 0#22 ∧
    descM (rawRecord m bytes).desc = m := by
  have hv := rawRecord_desc_toNat m bytes
  generalize (rawRecord m bytes).desc = d at hv ⊢
  have hm := m.isLt
  refine ⟨?_, ?_, ?_⟩ <;> apply BitVec.eq_of_toNat_eq
  · rw [descKind, toNat_field, hv]; simp only [BitVec.toNat_ofNat]; omega
  · rw [descRawReserved, toNat_field, hv]; simp only [BitVec.toNat_ofNat]; omega
  · rw [descM, toNat_field, hv]; omega

/-- A descriptor of kind 00 with its reserved bits 0 is its fields. -/
theorem encodeRecord_of_fields {d : Desc} (hk : descKind d = 0#2) (hr : descEncReserved d = 0#5) (h : HdrBytes)
    (pay : List Byte) : (encodeRecord (descSerr d) (descN d) (descMsgop d) h pay).desc = d := by
  apply BitVec.eq_of_toNat_eq
  rw [encodeRecord_desc_toNat, descSerr_toNat, descN, descMsgop, toNat_field, toNat_field]
  have hk := congrArg BitVec.toNat hk
  have hr := congrArg BitVec.toNat hr
  rw [descKind, toNat_field] at hk
  rw [descEncReserved, toNat_field] at hr
  simp only [BitVec.toNat_ofNat] at hk hr
  have := d.isLt
  omega

/-- A descriptor of kind 01 with its reserved bits 0 is its count. -/
theorem rawRecord_of_fields {d : Desc} (hk : descKind d = 1#2) (hr : descRawReserved d = 0#22) (bytes : List Byte) :
    (rawRecord (descM d) bytes).desc = d := by
  apply BitVec.eq_of_toNat_eq
  rw [rawRecord_desc_toNat, descM, toNat_field]
  have hk := congrArg BitVec.toNat hk
  have hr := congrArg BitVec.toNat hr
  rw [descKind, toNat_field] at hk
  rw [descRawReserved, toNat_field] at hr
  simp only [BitVec.toNat_ofNat] at hk hr
  have := d.isLt
  omega

@[simp] theorem HdrBytes.length_toList (h : HdrBytes) : h.toList.length = 8 := rfl

end Sys2Proof
end

