-- ==== Sys2Proof/Laws/Decode.lean ====
section
/-! SUPPORT. What each decoder can answer, with the conditions that go with each answer. -/

namespace Sys2Proof

/-- Everything the event decoder can answer. -/
theorem decodeEvent_cases (w : EventWord) :
    (evStatus w = 0#2 ∧ decodeEvent w = .byte (evData w)) ∨ (evStatus w = 1#2 ∧ decodeEvent w = .timeout) ∨
    (evStatus w = 2#2 ∧ decodeEvent w = .error) ∨ (evStatus w = 3#2 ∧ decodeEvent w = .closed) := by
  have h : ∀ st : BitVec 2, st ≠ 0#2 → st ≠ 1#2 → st ≠ 2#2 → st = 3#2 := by decide
  unfold decodeEvent
  by_cases h0 : evStatus w = 0#2
  · exact .inl ⟨h0, if_pos h0⟩
  · by_cases h1 : evStatus w = 1#2
    · exact .inr (.inl ⟨h1, by rw [if_neg h0, if_pos h1]⟩)
    · by_cases h2 : evStatus w = 2#2
      · exact .inr (.inr (.inl ⟨h2, by rw [if_neg h0, if_neg h1, if_pos h2]⟩))
      · exact .inr (.inr (.inr ⟨h _ h0 h1 h2, by rw [if_neg h0, if_neg h1, if_neg h2]⟩))

/-- Everything the command decoder can answer. -/
theorem decodeCommand_cases (r : CmdRecord) :
    (∃ hdr pay, descKind r.desc = 0#2 ∧ descEncReserved r.desc = 0#5 ∧ r.data = hdr.toList ++ pay ∧
      pay.length = (descN r.desc).toNat ∧
      decodeCommand r = .encode (descSerr r.desc) (descN r.desc) (descMsgop r.desc) hdr pay) ∨
    (descKind r.desc = 1#2 ∧ descRawReserved r.desc = 0#22 ∧ r.data.length = (descM r.desc).toNat ∧
      decodeCommand r = .raw (descM r.desc) r.data) ∨
    (r.desc = closeDesc ∧ r.data = [] ∧ decodeCommand r = .close) ∨
    (¬(descKind r.desc = 0#2 ∧ descEncReserved r.desc = 0#5 ∧ r.data.length = 8 + (descN r.desc).toNat) ∧
      ¬(descKind r.desc = 1#2 ∧ descRawReserved r.desc = 0#22 ∧ r.data.length = (descM r.desc).toNat) ∧
      ¬(r.desc = closeDesc ∧ r.data = []) ∧ decodeCommand r = .illegal r) := by
  unfold decodeCommand
  split
  · rename_i h
    split
    · rename_i heq
      refine .inl ⟨_, _, h.1, h.2.1, by rw [heq]; simp [HdrBytes.toList], ?_, rfl⟩
      have := h.2.2
      rw [heq] at this
      simp only [List.length_cons] at this
      omega
    · rename_i hno
      exfalso
      obtain ⟨-, -, h⟩ := h
      rcases hd : r.data with
        _ | ⟨a0, _ | ⟨a1, _ | ⟨a2, _ | ⟨a3, _ | ⟨a4, _ | ⟨a5, _ | ⟨a6, _ | ⟨a7, l⟩⟩⟩⟩⟩⟩⟩⟩
      all_goals first
        | (rw [hd] at h; simp only [List.length_cons, List.length_nil] at h; omega)
        | exact hno _ _ _ _ _ _ _ _ _ hd
  · rename_i h1
    split
    · rename_i h
      exact .inr (.inl ⟨h.1, h.2.1, h.2.2, rfl⟩)
    · rename_i h2
      split
      · rename_i h
        exact .inr (.inr (.inl ⟨h.1, h.2, rfl⟩))
      · rename_i h3
        exact .inr (.inr (.inr ⟨h1, h2, h3, rfl⟩))

/-- The count of a decoded `ENCODE` is its payload's length. -/
theorem payload_length_of_decode {r : CmdRecord} {serr : Bool} {n : Byte} {op : U16} {hdr : HdrBytes} {pay : List Byte}
    (h : decodeCommand r = .encode serr n op hdr pay) : pay.length = n.toNat := by
  rcases decodeCommand_cases r with ⟨_, _, -, -, -, hl, he⟩ | ⟨-, -, -, he⟩ | ⟨-, -, he⟩ | ⟨-, -, -, he⟩ <;> rw [h] at he
  · cases he; exact hl
  all_goals cases he

/-- The count of a decoded `RAW` is its bytes' length. -/
theorem raw_length_of_decode {r : CmdRecord} {m : Byte} {bytes : List Byte} (h : decodeCommand r = .raw m bytes) :
    bytes.length = m.toNat := by
  rcases decodeCommand_cases r with ⟨_, _, -, -, -, -, he⟩ | ⟨-, -, hl, he⟩ | ⟨-, -, he⟩ | ⟨-, -, -, he⟩ <;> rw [h] at he
  · cases he
  · cases he; exact hl
  all_goals cases he

end Sys2Proof
end

