-- ==== Sys2Proof/Laws/Memory.lean ====
section
/-! SUPPORT. What each operation on a byte array does: the read after a write, the canonical form kept, and the bytes a
range read or a list write answers. -/

namespace Sys2Proof.Machine

@[simp] theorem memRead_nil (a : Nat) : memRead [] a = none := rfl

/-- A read after a write: the byte written at its index, every other index as before. -/
theorem memRead_memPut (m : Memory) (a : Nat) (v : Byte) (b : Nat) :
    memRead (memPut m a v) b = if b = a then some v else memRead m b := by
  induction m with
  | nil => simp [memPut, memRead]
  | cons p m ih =>
    obtain ⟨c, x⟩ := p
    unfold memPut
    split
    · simp [memRead]
    · split
      · subst a; by_cases h : b = c <;> simp [memRead, h]
      · rename_i h1 h2
        by_cases h : b = c
        · have : b ≠ a := by omega
          simp [memRead, h]; omega
        · simp [memRead, h, ih]

@[simp] theorem memRead_memPut_same (m : Memory) (a : Nat) (v : Byte) : memRead (memPut m a v) a = some v := by
  simp [memRead_memPut]

theorem memRead_memPut_other (m : Memory) {a b : Nat} (v : Byte) (h : b ≠ a) :
    memRead (memPut m a v) b = memRead m b := by
  simp [memRead_memPut, h]

theorem memRises_memPut {m : Memory} {lo a : Nat} (v : Byte) (h : memRises lo m = true) (ha : lo ≤ a) :
    memRises lo (memPut m a v) = true := by
  induction m generalizing lo with
  | nil => simpa [memPut, memRises] using ha
  | cons p m ih =>
    obtain ⟨c, x⟩ := p
    simp only [memRises, Bool.and_eq_true, decide_eq_true_eq] at h
    unfold memPut
    split
    · simp only [memRises, Bool.and_eq_true, decide_eq_true_eq]
      exact ⟨ha, by omega, h.2⟩
    · split
      · simp only [memRises, Bool.and_eq_true, decide_eq_true_eq]
        subst a
        exact h
      · simp only [memRises, Bool.and_eq_true, decide_eq_true_eq]
        exact ⟨h.1, ih h.2 (by omega)⟩

/-- A write keeps the canonical form. -/
theorem Memory.wf_memPut {m : Memory} (a : Nat) (v : Byte) (h : Memory.wf m = true) :
    Memory.wf (memPut m a v) = true :=
  memRises_memPut v h (Nat.zero_le a)

@[simp] theorem Memory.wf_nil : Memory.wf [] = true := rfl

/-- In an array whose indices all reach `lo`, a smaller index holds nothing. -/
theorem memRead_below {m : Memory} {lo a : Nat} (h : memRises lo m = true) (ha : a < lo) : memRead m a = none := by
  induction m generalizing lo with
  | nil => rfl
  | cons p m ih =>
    obtain ⟨c, x⟩ := p
    simp only [memRises, Bool.and_eq_true, decide_eq_true_eq] at h
    have : a ≠ c := by omega
    simpa [memRead, this] using ih h.2 (by omega)

/-- `memWrite` answers exactly inside the array, and then it is `memPut`. -/
theorem memWrite_eq_some {size : Nat} {m m' : Memory} {a : Nat} {v : Byte} :
    memWrite size m a v = some m' ↔ a < size ∧ m' = memPut m a v := by
  unfold memWrite
  split <;> simp_all [eq_comm]

theorem memWrite_inside {size : Nat} (m : Memory) {a : Nat} (v : Byte) (h : a < size) :
    memWrite size m a v = some (memPut m a v) := by
  simp [memWrite, h]

/-! ### What the machine reads of an array -/

/-- Inside the array a read answers the written byte, or the free value where there is none. -/
theorem bufRead_inside {size : Nat} {free : Nat → Byte} {m : Memory} {a : Nat} (h : a < size) :
    bufRead size free m a = some ((memRead m a).getD (free a)) := by
  simp [bufRead, h]

/-- Outside the array nothing is read. -/
theorem bufRead_outside {size : Nat} {free : Nat → Byte} {m : Memory} {a : Nat} (h : size ≤ a) :
    bufRead size free m a = none := by
  simp [bufRead, Nat.not_lt_of_le h]

/-- A written byte is read, whatever the free values are. -/
theorem bufRead_written {size : Nat} {free : Nat → Byte} {m : Memory} {a : Nat} {v : Byte} (h : a < size)
    (hm : memRead m a = some v) : bufRead size free m a = some v := by
  simp [bufRead, h, hm]

/-- A read after a write: the byte written at its index, every other index as before. -/
theorem bufRead_memPut {size : Nat} {free : Nat → Byte} (m : Memory) {a : Nat} (v : Byte) (b : Nat) (h : a < size) :
    bufRead size free (memPut m a v) b = if b = a then some v else bufRead size free m b := by
  by_cases hb : b = a
  · subst hb; simp [bufRead, h]
  · simp [bufRead, memRead_memPut, hb]

/-- Every index of RXBUF reads, and no other: nothing ordinary can stop a read. -/
theorem rxRead_isSome (s : State) (a : Nat) : (rxRead s a).isSome = true ↔ a < Config.rxBufSize := by
  by_cases h : a < Config.rxBufSize <;> simp [rxRead, bufRead, h]

/-- Every index of TXBUF reads, and no other. -/
theorem txRead_isSome (s : State) (a : Nat) : (txRead s a).isSome = true ↔ a < Config.txBufSize := by
  by_cases h : a < Config.txBufSize <;> simp [txRead, bufRead, h]

/-- A range read answers exactly the list of the bytes read at its indices. -/
theorem readRange_eq_some {rd : Nat → Option Byte} {a n : Nat} {bs : List Byte} :
    readRange rd a n = some bs ↔ bs.length = n ∧ ∀ i, i < n → rd (a + i) = bs[i]? := by
  induction n generalizing a bs with
  | zero =>
    constructor
    · intro h; simp [readRange] at h; subst h; simp
    · rintro ⟨h, -⟩; simp [readRange, List.length_eq_zero_iff.mp h]
  | succ n ih =>
    unfold readRange
    constructor
    · intro h
      split at h
      · rename_i b cs hb hcs
        obtain ⟨hl, hr⟩ := ih.mp hcs
        simp only [Option.some.injEq] at h
        subst h
        refine ⟨by simp [hl], fun i hi => ?_⟩
        cases i with
        | zero => simpa using hb
        | succ i =>
          have := hr i (by omega)
          simpa [Nat.add_assoc, Nat.add_comm, Nat.add_left_comm] using this
      · exact absurd h (by simp)
    · rintro ⟨hl, hr⟩
      cases bs with
      | nil => simp at hl
      | cons b cs =>
        have h0 := hr 0 (by omega)
        have htail : readRange rd (a + 1) n = some cs :=
          ih.mpr ⟨by simpa using hl, fun i hi => by
            have := hr (i + 1) (by omega)
            simpa [Nat.add_assoc, Nat.add_comm, Nat.add_left_comm] using this⟩
        have hb : rd a = some b := by simpa using h0
        simp [hb, htail]

/-- A range read answers where every byte of the range reads. -/
theorem readRange_isSome {rd : Nat → Option Byte} {a n : Nat} (h : ∀ i, i < n → (rd (a + i)).isSome = true) :
    ∃ bs, readRange rd a n = some bs := by
  induction n generalizing a with
  | zero => exact ⟨[], rfl⟩
  | succ n ih =>
    obtain ⟨cs, hcs⟩ := ih (a := a + 1) fun i hi => by
      have := h (i + 1) (by omega)
      simpa [Nat.add_assoc, Nat.add_comm, Nat.add_left_comm] using this
    obtain ⟨b, hb⟩ := Option.isSome_iff_exists.mp (h 0 (by omega))
    exact ⟨b :: cs, by simp [readRange, hcs, show rd a = some b from hb]⟩

/-- Two reads that agree on a range answer the same list there. -/
theorem readRange_congr {f g : Nat → Option Byte} {a n : Nat} (h : ∀ i, i < n → f (a + i) = g (a + i)) :
    readRange f a n = readRange g a n := by
  induction n generalizing a with
  | zero => rfl
  | succ n ih =>
    have htail : readRange f (a + 1) n = readRange g (a + 1) n :=
      ih fun i hi => by
        have := h (i + 1) (by omega)
        simpa [Nat.add_assoc, Nat.add_comm, Nat.add_left_comm] using this
    have h0 : f a = g a := h 0 (by omega)
    simp only [readRange, h0, htail]

/-- A list write inside the array answers. -/
theorem memWriteList_inside {size : Nat} (m : Memory) (a : Nat) (vs : List Byte) (h : a + vs.length ≤ size) :
    ∃ m', memWriteList size m a vs = some m' := by
  induction vs generalizing m a with
  | nil => exact ⟨m, rfl⟩
  | cons v vs ih =>
    simp only [List.length_cons] at h
    obtain ⟨m', hm'⟩ := ih (memPut m a v) (a + 1) (by omega)
    exact ⟨m', by simp [memWriteList, memWrite_inside m v (show a < size by omega), hm']⟩

/-- Where a list write answers, its bytes stand at their indices and every other index is as before. -/
theorem memRead_memWriteList {size : Nat} {m m' : Memory} {a : Nat} {vs : List Byte}
    (h : memWriteList size m a vs = some m') (b : Nat) :
    memRead m' b = if a ≤ b ∧ b < a + vs.length then vs[b - a]? else memRead m b := by
  induction vs generalizing m a with
  | nil =>
    simp only [memWriteList, Option.some.injEq] at h
    subst h
    rw [if_neg (by simp only [List.length_nil]; omega)]
  | cons v vs ih =>
    unfold memWriteList at h
    split at h
    · rename_i m1 h1
      obtain ⟨ha, rfl⟩ := memWrite_eq_some.mp h1
      rw [ih h, memRead_memPut]
      simp only [List.length_cons]
      by_cases hb : b = a
      · subst hb; simp
      · by_cases hr : a + 1 ≤ b ∧ b < a + 1 + vs.length
        · rw [if_pos hr, if_pos (by omega), show b - a = (b - (a + 1)) + 1 by omega]
          simp
        · rw [if_neg hr, if_neg hb, if_neg (by omega)]
    · exact absurd h (by simp)

/-- A list write stays inside the array. -/
theorem memWriteList_length {size : Nat} {m m' : Memory} {a : Nat} {vs : List Byte}
    (h : memWriteList size m a vs = some m') (hne : vs ≠ []) : a + vs.length ≤ size := by
  induction vs generalizing m a with
  | nil => exact absurd rfl hne
  | cons v vs ih =>
    unfold memWriteList at h
    split at h
    · rename_i m1 h1
      have ha := (memWrite_eq_some.mp h1).1
      by_cases hv : vs = []
      · subst hv; simp only [List.length_cons, List.length_nil]; omega
      · have := ih h hv
        simp only [List.length_cons]; omega
    · exact absurd h (by simp)

/-- What is read after a list write: the list at its indices, every other index as before, whatever the free values are. -/
theorem bufRead_memWriteList {size : Nat} {free : Nat → Byte} {m m' : Memory} {a : Nat} {vs : List Byte}
    (h : memWriteList size m a vs = some m') (b : Nat) :
    bufRead size free m' b = if a ≤ b ∧ b < a + vs.length then vs[b - a]? else bufRead size free m b := by
  by_cases hb : a ≤ b ∧ b < a + vs.length
  · have hne : vs ≠ [] := by
      rintro rfl
      simp at hb
      omega
    have hlen := memWriteList_length h hne
    have hv : vs[b - a]? = some (vs[b - a]'(by omega)) := List.getElem?_eq_getElem _
    rw [if_pos hb, hv]
    exact bufRead_written (by omega) (by rw [memRead_memWriteList h, if_pos hb, hv])
  · rw [if_neg hb]
    simp only [bufRead]
    rw [memRead_memWriteList h, if_neg hb]

/-- A list write keeps the canonical form. -/
theorem Memory.wf_memWriteList {size : Nat} {m m' : Memory} {a : Nat} {vs : List Byte}
    (h : memWriteList size m a vs = some m') (hm : Memory.wf m = true) : Memory.wf m' = true := by
  induction vs generalizing m a with
  | nil => simp only [memWriteList, Option.some.injEq] at h; exact h ▸ hm
  | cons v vs ih =>
    unfold memWriteList at h
    split at h
    · rename_i m1 h1
      obtain ⟨-, rfl⟩ := memWrite_eq_some.mp h1
      exact ih h (Memory.wf_memPut a v hm)
    · exact absurd h (by simp)

end Sys2Proof.Machine
end

