-- ==== Sys2Proof/Laws/State.lean ====
section
/-! SUPPORT. One lemma per field per named update of the state, so that no later proof unfolds a record update. -/

namespace Sys2Proof.Machine

/-! ### diag -/

@[simp] theorem diag_rx_state (c : DiagCode) (i : DiagInfo) (s : State) : (diag c i s).rx_state = s.rx_state := rfl
@[simp] theorem diag_rx_len (c : DiagCode) (i : DiagInfo) (s : State) : (diag c i s).rx_len = s.rx_len := rfl
@[simp] theorem diag_rx_idx (c : DiagCode) (i : DiagInfo) (s : State) : (diag c i s).rx_idx = s.rx_idx := rfl
@[simp] theorem diag_rx_buf (c : DiagCode) (i : DiagInfo) (s : State) : (diag c i s).rx_buf = s.rx_buf := rfl
@[simp] theorem diag_rx_fatal (c : DiagCode) (i : DiagInfo) (s : State) : (diag c i s).rx_fatal = s.rx_fatal := rfl
@[simp] theorem diag_tx_state (c : DiagCode) (i : DiagInfo) (s : State) : (diag c i s).tx_state = s.tx_state := rfl
@[simp] theorem diag_tx_cmd (c : DiagCode) (i : DiagInfo) (s : State) : (diag c i s).tx_cmd = s.tx_cmd := rfl
@[simp] theorem diag_tx_buf (c : DiagCode) (i : DiagInfo) (s : State) : (diag c i s).tx_buf = s.tx_buf := rfl
@[simp] theorem diag_tx_cnt (c : DiagCode) (i : DiagInfo) (s : State) : (diag c i s).tx_cnt = s.tx_cnt := rfl
@[simp] theorem diag_tx_idx (c : DiagCode) (i : DiagInfo) (s : State) : (diag c i s).tx_idx = s.tx_idx := rfl
@[simp] theorem diag_owner (c : DiagCode) (i : DiagInfo) (s : State) : (diag c i s).owner = s.owner := rfl
@[simp] theorem diag_wire_in (c : DiagCode) (i : DiagInfo) (s : State) : (diag c i s).wire_in = s.wire_in := rfl
@[simp] theorem diag_wire_out (c : DiagCode) (i : DiagInfo) (s : State) : (diag c i s).wire_out = s.wire_out := rfl
@[simp] theorem diag_diag_log (c : DiagCode) (i : DiagInfo) (s : State) : (diag c i s).diag_log = s.diag_log ++ [(c, i)] := rfl
@[simp] theorem diag_txs_log (c : DiagCode) (i : DiagInfo) (s : State) : (diag c i s).txs_log = s.txs_log := rfl
@[simp] theorem diag_delivered (c : DiagCode) (i : DiagInfo) (s : State) : (diag c i s).delivered = s.delivered := rfl
@[simp] theorem diag_rst (c : DiagCode) (i : DiagInfo) (s : State) : (diag c i s).rst = s.rst := rfl
@[simp] theorem diag_rx_ev (c : DiagCode) (i : DiagInfo) (s : State) : (diag c i s).rx_ev = s.rx_ev := rfl
@[simp] theorem diag_cmd (c : DiagCode) (i : DiagInfo) (s : State) : (diag c i s).cmd = s.cmd := rfl
@[simp] theorem diag_sched (c : DiagCode) (i : DiagInfo) (s : State) : (diag c i s).sched = s.sched := rfl
@[simp] theorem diag_resets (c : DiagCode) (i : DiagInfo) (s : State) : (diag c i s).resets = s.resets := rfl
@[simp] theorem diag_rxRead (c : DiagCode) (i : DiagInfo) (s : State) : rxRead (diag c i s) = rxRead s := rfl
@[simp] theorem diag_txRead (c : DiagCode) (i : DiagInfo) (s : State) : txRead (diag c i s) = txRead s := rfl

/-! ### txStatus -/

@[simp] theorem txStatus_rx_state (c : TxStatus) (s : State) : (txStatus c s).rx_state = s.rx_state := rfl
@[simp] theorem txStatus_rx_len (c : TxStatus) (s : State) : (txStatus c s).rx_len = s.rx_len := rfl
@[simp] theorem txStatus_rx_idx (c : TxStatus) (s : State) : (txStatus c s).rx_idx = s.rx_idx := rfl
@[simp] theorem txStatus_rx_buf (c : TxStatus) (s : State) : (txStatus c s).rx_buf = s.rx_buf := rfl
@[simp] theorem txStatus_rx_fatal (c : TxStatus) (s : State) : (txStatus c s).rx_fatal = s.rx_fatal := rfl
@[simp] theorem txStatus_tx_state (c : TxStatus) (s : State) : (txStatus c s).tx_state = s.tx_state := rfl
@[simp] theorem txStatus_tx_cmd (c : TxStatus) (s : State) : (txStatus c s).tx_cmd = s.tx_cmd := rfl
@[simp] theorem txStatus_tx_buf (c : TxStatus) (s : State) : (txStatus c s).tx_buf = s.tx_buf := rfl
@[simp] theorem txStatus_tx_cnt (c : TxStatus) (s : State) : (txStatus c s).tx_cnt = s.tx_cnt := rfl
@[simp] theorem txStatus_tx_idx (c : TxStatus) (s : State) : (txStatus c s).tx_idx = s.tx_idx := rfl
@[simp] theorem txStatus_owner (c : TxStatus) (s : State) : (txStatus c s).owner = s.owner := rfl
@[simp] theorem txStatus_wire_in (c : TxStatus) (s : State) : (txStatus c s).wire_in = s.wire_in := rfl
@[simp] theorem txStatus_wire_out (c : TxStatus) (s : State) : (txStatus c s).wire_out = s.wire_out := rfl
@[simp] theorem txStatus_diag_log (c : TxStatus) (s : State) : (txStatus c s).diag_log = s.diag_log := rfl
@[simp] theorem txStatus_txs_log (c : TxStatus) (s : State) : (txStatus c s).txs_log = s.txs_log ++ [c] := rfl
@[simp] theorem txStatus_delivered (c : TxStatus) (s : State) : (txStatus c s).delivered = s.delivered := rfl
@[simp] theorem txStatus_rst (c : TxStatus) (s : State) : (txStatus c s).rst = s.rst := rfl
@[simp] theorem txStatus_rx_ev (c : TxStatus) (s : State) : (txStatus c s).rx_ev = s.rx_ev := rfl
@[simp] theorem txStatus_cmd (c : TxStatus) (s : State) : (txStatus c s).cmd = s.cmd := rfl
@[simp] theorem txStatus_sched (c : TxStatus) (s : State) : (txStatus c s).sched = s.sched := rfl
@[simp] theorem txStatus_resets (c : TxStatus) (s : State) : (txStatus c s).resets = s.resets := rfl
@[simp] theorem txStatus_rxRead (c : TxStatus) (s : State) : rxRead (txStatus c s) = rxRead s := rfl
@[simp] theorem txStatus_txRead (c : TxStatus) (s : State) : txRead (txStatus c s) = txRead s := rfl

/-! ### freeLink -/

@[simp] theorem freeLink_rx_state (s : State) : (freeLink s).rx_state = s.rx_state := rfl
@[simp] theorem freeLink_rx_len (s : State) : (freeLink s).rx_len = s.rx_len := rfl
@[simp] theorem freeLink_rx_idx (s : State) : (freeLink s).rx_idx = s.rx_idx := rfl
@[simp] theorem freeLink_rx_buf (s : State) : (freeLink s).rx_buf = s.rx_buf := rfl
@[simp] theorem freeLink_rx_fatal (s : State) : (freeLink s).rx_fatal = s.rx_fatal := rfl
@[simp] theorem freeLink_tx_state (s : State) : (freeLink s).tx_state = s.tx_state := rfl
@[simp] theorem freeLink_tx_cmd (s : State) : (freeLink s).tx_cmd = s.tx_cmd := rfl
@[simp] theorem freeLink_tx_buf (s : State) : (freeLink s).tx_buf = s.tx_buf := rfl
@[simp] theorem freeLink_tx_cnt (s : State) : (freeLink s).tx_cnt = s.tx_cnt := rfl
@[simp] theorem freeLink_tx_idx (s : State) : (freeLink s).tx_idx = s.tx_idx := rfl
@[simp] theorem freeLink_owner (s : State) : (freeLink s).owner = .none := rfl
@[simp] theorem freeLink_wire_in (s : State) : (freeLink s).wire_in = s.wire_in := rfl
@[simp] theorem freeLink_wire_out (s : State) : (freeLink s).wire_out = s.wire_out := rfl
@[simp] theorem freeLink_diag_log (s : State) : (freeLink s).diag_log = s.diag_log := rfl
@[simp] theorem freeLink_txs_log (s : State) : (freeLink s).txs_log = s.txs_log := rfl
@[simp] theorem freeLink_delivered (s : State) : (freeLink s).delivered = s.delivered := rfl
@[simp] theorem freeLink_rst (s : State) : (freeLink s).rst = s.rst := rfl
@[simp] theorem freeLink_rx_ev (s : State) : (freeLink s).rx_ev = s.rx_ev := rfl
@[simp] theorem freeLink_cmd (s : State) : (freeLink s).cmd = s.cmd := rfl
@[simp] theorem freeLink_sched (s : State) : (freeLink s).sched = s.sched := rfl
@[simp] theorem freeLink_resets (s : State) : (freeLink s).resets = s.resets := rfl
@[simp] theorem freeLink_rxRead (s : State) : rxRead (freeLink s) = rxRead s := rfl
@[simp] theorem freeLink_txRead (s : State) : txRead (freeLink s) = txRead s := rfl

/-! ### takeEvent -/

@[simp] theorem takeEvent_rx_state (w : EventWord) (ws : List EventWord) (s : State) : (takeEvent w ws s).rx_state = s.rx_state := rfl
@[simp] theorem takeEvent_rx_len (w : EventWord) (ws : List EventWord) (s : State) : (takeEvent w ws s).rx_len = s.rx_len := rfl
@[simp] theorem takeEvent_rx_idx (w : EventWord) (ws : List EventWord) (s : State) : (takeEvent w ws s).rx_idx = s.rx_idx := rfl
@[simp] theorem takeEvent_rx_buf (w : EventWord) (ws : List EventWord) (s : State) : (takeEvent w ws s).rx_buf = s.rx_buf := rfl
@[simp] theorem takeEvent_rx_fatal (w : EventWord) (ws : List EventWord) (s : State) : (takeEvent w ws s).rx_fatal = s.rx_fatal := rfl
@[simp] theorem takeEvent_tx_state (w : EventWord) (ws : List EventWord) (s : State) : (takeEvent w ws s).tx_state = s.tx_state := rfl
@[simp] theorem takeEvent_tx_cmd (w : EventWord) (ws : List EventWord) (s : State) : (takeEvent w ws s).tx_cmd = s.tx_cmd := rfl
@[simp] theorem takeEvent_tx_buf (w : EventWord) (ws : List EventWord) (s : State) : (takeEvent w ws s).tx_buf = s.tx_buf := rfl
@[simp] theorem takeEvent_tx_cnt (w : EventWord) (ws : List EventWord) (s : State) : (takeEvent w ws s).tx_cnt = s.tx_cnt := rfl
@[simp] theorem takeEvent_tx_idx (w : EventWord) (ws : List EventWord) (s : State) : (takeEvent w ws s).tx_idx = s.tx_idx := rfl
@[simp] theorem takeEvent_owner (w : EventWord) (ws : List EventWord) (s : State) : (takeEvent w ws s).owner = s.owner := rfl
@[simp] theorem takeEvent_wire_in (w : EventWord) (ws : List EventWord) (s : State) : (takeEvent w ws s).wire_in = s.wire_in ++ [w] := rfl
@[simp] theorem takeEvent_wire_out (w : EventWord) (ws : List EventWord) (s : State) : (takeEvent w ws s).wire_out = s.wire_out := rfl
@[simp] theorem takeEvent_diag_log (w : EventWord) (ws : List EventWord) (s : State) : (takeEvent w ws s).diag_log = s.diag_log := rfl
@[simp] theorem takeEvent_txs_log (w : EventWord) (ws : List EventWord) (s : State) : (takeEvent w ws s).txs_log = s.txs_log := rfl
@[simp] theorem takeEvent_delivered (w : EventWord) (ws : List EventWord) (s : State) : (takeEvent w ws s).delivered = s.delivered := rfl
@[simp] theorem takeEvent_rst (w : EventWord) (ws : List EventWord) (s : State) : (takeEvent w ws s).rst = s.rst := rfl
@[simp] theorem takeEvent_rx_ev (w : EventWord) (ws : List EventWord) (s : State) : (takeEvent w ws s).rx_ev = ws := rfl
@[simp] theorem takeEvent_cmd (w : EventWord) (ws : List EventWord) (s : State) : (takeEvent w ws s).cmd = s.cmd := rfl
@[simp] theorem takeEvent_sched (w : EventWord) (ws : List EventWord) (s : State) : (takeEvent w ws s).sched = s.sched := rfl
@[simp] theorem takeEvent_resets (w : EventWord) (ws : List EventWord) (s : State) : (takeEvent w ws s).resets = s.resets := rfl
@[simp] theorem takeEvent_rxRead (w : EventWord) (ws : List EventWord) (s : State) : rxRead (takeEvent w ws s) = rxRead s := rfl
@[simp] theorem takeEvent_txRead (w : EventWord) (ws : List EventWord) (s : State) : txRead (takeEvent w ws s) = txRead s := rfl

/-! ### takeRecord -/

@[simp] theorem takeRecord_rx_state (rs : List CmdRecord) (s : State) : (takeRecord rs s).rx_state = s.rx_state := rfl
@[simp] theorem takeRecord_rx_len (rs : List CmdRecord) (s : State) : (takeRecord rs s).rx_len = s.rx_len := rfl
@[simp] theorem takeRecord_rx_idx (rs : List CmdRecord) (s : State) : (takeRecord rs s).rx_idx = s.rx_idx := rfl
@[simp] theorem takeRecord_rx_buf (rs : List CmdRecord) (s : State) : (takeRecord rs s).rx_buf = s.rx_buf := rfl
@[simp] theorem takeRecord_rx_fatal (rs : List CmdRecord) (s : State) : (takeRecord rs s).rx_fatal = s.rx_fatal := rfl
@[simp] theorem takeRecord_tx_state (rs : List CmdRecord) (s : State) : (takeRecord rs s).tx_state = s.tx_state := rfl
@[simp] theorem takeRecord_tx_cmd (rs : List CmdRecord) (s : State) : (takeRecord rs s).tx_cmd = s.tx_cmd := rfl
@[simp] theorem takeRecord_tx_buf (rs : List CmdRecord) (s : State) : (takeRecord rs s).tx_buf = s.tx_buf := rfl
@[simp] theorem takeRecord_tx_cnt (rs : List CmdRecord) (s : State) : (takeRecord rs s).tx_cnt = s.tx_cnt := rfl
@[simp] theorem takeRecord_tx_idx (rs : List CmdRecord) (s : State) : (takeRecord rs s).tx_idx = s.tx_idx := rfl
@[simp] theorem takeRecord_owner (rs : List CmdRecord) (s : State) : (takeRecord rs s).owner = s.owner := rfl
@[simp] theorem takeRecord_wire_in (rs : List CmdRecord) (s : State) : (takeRecord rs s).wire_in = s.wire_in := rfl
@[simp] theorem takeRecord_wire_out (rs : List CmdRecord) (s : State) : (takeRecord rs s).wire_out = s.wire_out := rfl
@[simp] theorem takeRecord_diag_log (rs : List CmdRecord) (s : State) : (takeRecord rs s).diag_log = s.diag_log := rfl
@[simp] theorem takeRecord_txs_log (rs : List CmdRecord) (s : State) : (takeRecord rs s).txs_log = s.txs_log := rfl
@[simp] theorem takeRecord_delivered (rs : List CmdRecord) (s : State) : (takeRecord rs s).delivered = s.delivered := rfl
@[simp] theorem takeRecord_rst (rs : List CmdRecord) (s : State) : (takeRecord rs s).rst = s.rst := rfl
@[simp] theorem takeRecord_rx_ev (rs : List CmdRecord) (s : State) : (takeRecord rs s).rx_ev = s.rx_ev := rfl
@[simp] theorem takeRecord_cmd (rs : List CmdRecord) (s : State) : (takeRecord rs s).cmd = rs := rfl
@[simp] theorem takeRecord_sched (rs : List CmdRecord) (s : State) : (takeRecord rs s).sched = s.sched := rfl
@[simp] theorem takeRecord_resets (rs : List CmdRecord) (s : State) : (takeRecord rs s).resets = s.resets := rfl
@[simp] theorem takeRecord_rxRead (rs : List CmdRecord) (s : State) : rxRead (takeRecord rs s) = rxRead s := rfl
@[simp] theorem takeRecord_txRead (rs : List CmdRecord) (s : State) : txRead (takeRecord rs s) = txRead s := rfl

/-! ### latchCommand -/

@[simp] theorem latchCommand_rx_state (r : CmdRecord) (s : State) : (latchCommand r s).rx_state = s.rx_state := rfl
@[simp] theorem latchCommand_rx_len (r : CmdRecord) (s : State) : (latchCommand r s).rx_len = s.rx_len := rfl
@[simp] theorem latchCommand_rx_idx (r : CmdRecord) (s : State) : (latchCommand r s).rx_idx = s.rx_idx := rfl
@[simp] theorem latchCommand_rx_buf (r : CmdRecord) (s : State) : (latchCommand r s).rx_buf = s.rx_buf := rfl
@[simp] theorem latchCommand_rx_fatal (r : CmdRecord) (s : State) : (latchCommand r s).rx_fatal = s.rx_fatal := rfl
@[simp] theorem latchCommand_tx_state (r : CmdRecord) (s : State) : (latchCommand r s).tx_state = .acq := rfl
@[simp] theorem latchCommand_tx_cmd (r : CmdRecord) (s : State) : (latchCommand r s).tx_cmd = r := rfl
@[simp] theorem latchCommand_tx_buf (r : CmdRecord) (s : State) : (latchCommand r s).tx_buf = s.tx_buf := rfl
@[simp] theorem latchCommand_tx_cnt (r : CmdRecord) (s : State) : (latchCommand r s).tx_cnt = s.tx_cnt := rfl
@[simp] theorem latchCommand_tx_idx (r : CmdRecord) (s : State) : (latchCommand r s).tx_idx = s.tx_idx := rfl
@[simp] theorem latchCommand_owner (r : CmdRecord) (s : State) : (latchCommand r s).owner = s.owner := rfl
@[simp] theorem latchCommand_wire_in (r : CmdRecord) (s : State) : (latchCommand r s).wire_in = s.wire_in := rfl
@[simp] theorem latchCommand_wire_out (r : CmdRecord) (s : State) : (latchCommand r s).wire_out = s.wire_out := rfl
@[simp] theorem latchCommand_diag_log (r : CmdRecord) (s : State) : (latchCommand r s).diag_log = s.diag_log := rfl
@[simp] theorem latchCommand_txs_log (r : CmdRecord) (s : State) : (latchCommand r s).txs_log = s.txs_log := rfl
@[simp] theorem latchCommand_delivered (r : CmdRecord) (s : State) : (latchCommand r s).delivered = s.delivered := rfl
@[simp] theorem latchCommand_rst (r : CmdRecord) (s : State) : (latchCommand r s).rst = s.rst := rfl
@[simp] theorem latchCommand_rx_ev (r : CmdRecord) (s : State) : (latchCommand r s).rx_ev = s.rx_ev := rfl
@[simp] theorem latchCommand_cmd (r : CmdRecord) (s : State) : (latchCommand r s).cmd = s.cmd := rfl
@[simp] theorem latchCommand_sched (r : CmdRecord) (s : State) : (latchCommand r s).sched = s.sched := rfl
@[simp] theorem latchCommand_resets (r : CmdRecord) (s : State) : (latchCommand r s).resets = s.resets := rfl
@[simp] theorem latchCommand_rxRead (r : CmdRecord) (s : State) : rxRead (latchCommand r s) = rxRead s := rfl
@[simp] theorem latchCommand_txRead (r : CmdRecord) (s : State) : txRead (latchCommand r s) = txRead s := rfl

/-! ### grantRx -/

@[simp] theorem grantRx_rx_state (s : State) : (grantRx s).rx_state = .seen1 := rfl
@[simp] theorem grantRx_rx_len (s : State) : (grantRx s).rx_len = s.rx_len := rfl
@[simp] theorem grantRx_rx_idx (s : State) : (grantRx s).rx_idx = s.rx_idx := rfl
@[simp] theorem grantRx_rx_buf (s : State) : (grantRx s).rx_buf = s.rx_buf := rfl
@[simp] theorem grantRx_rx_fatal (s : State) : (grantRx s).rx_fatal = s.rx_fatal := rfl
@[simp] theorem grantRx_tx_state (s : State) : (grantRx s).tx_state = s.tx_state := rfl
@[simp] theorem grantRx_tx_cmd (s : State) : (grantRx s).tx_cmd = s.tx_cmd := rfl
@[simp] theorem grantRx_tx_buf (s : State) : (grantRx s).tx_buf = s.tx_buf := rfl
@[simp] theorem grantRx_tx_cnt (s : State) : (grantRx s).tx_cnt = s.tx_cnt := rfl
@[simp] theorem grantRx_tx_idx (s : State) : (grantRx s).tx_idx = s.tx_idx := rfl
@[simp] theorem grantRx_owner (s : State) : (grantRx s).owner = .rx := rfl
@[simp] theorem grantRx_wire_in (s : State) : (grantRx s).wire_in = s.wire_in := rfl
@[simp] theorem grantRx_wire_out (s : State) : (grantRx s).wire_out = s.wire_out := rfl
@[simp] theorem grantRx_diag_log (s : State) : (grantRx s).diag_log = s.diag_log := rfl
@[simp] theorem grantRx_txs_log (s : State) : (grantRx s).txs_log = s.txs_log := rfl
@[simp] theorem grantRx_delivered (s : State) : (grantRx s).delivered = s.delivered := rfl
@[simp] theorem grantRx_rst (s : State) : (grantRx s).rst = s.rst := rfl
@[simp] theorem grantRx_rx_ev (s : State) : (grantRx s).rx_ev = s.rx_ev := rfl
@[simp] theorem grantRx_cmd (s : State) : (grantRx s).cmd = s.cmd := rfl
@[simp] theorem grantRx_sched (s : State) : (grantRx s).sched = s.sched := rfl
@[simp] theorem grantRx_resets (s : State) : (grantRx s).resets = s.resets := rfl
@[simp] theorem grantRx_rxRead (s : State) : rxRead (grantRx s) = rxRead s := rfl
@[simp] theorem grantRx_txRead (s : State) : txRead (grantRx s) = txRead s := rfl

/-! ### grantTx -/

@[simp] theorem grantTx_rx_state (s : State) : (grantTx s).rx_state = s.rx_state := rfl
@[simp] theorem grantTx_rx_len (s : State) : (grantTx s).rx_len = s.rx_len := rfl
@[simp] theorem grantTx_rx_idx (s : State) : (grantTx s).rx_idx = s.rx_idx := rfl
@[simp] theorem grantTx_rx_buf (s : State) : (grantTx s).rx_buf = s.rx_buf := rfl
@[simp] theorem grantTx_rx_fatal (s : State) : (grantTx s).rx_fatal = s.rx_fatal := rfl
@[simp] theorem grantTx_tx_state (s : State) : (grantTx s).tx_state = .enc := rfl
@[simp] theorem grantTx_tx_cmd (s : State) : (grantTx s).tx_cmd = s.tx_cmd := rfl
@[simp] theorem grantTx_tx_buf (s : State) : (grantTx s).tx_buf = s.tx_buf := rfl
@[simp] theorem grantTx_tx_cnt (s : State) : (grantTx s).tx_cnt = s.tx_cnt := rfl
@[simp] theorem grantTx_tx_idx (s : State) : (grantTx s).tx_idx = s.tx_idx := rfl
@[simp] theorem grantTx_owner (s : State) : (grantTx s).owner = .tx := rfl
@[simp] theorem grantTx_wire_in (s : State) : (grantTx s).wire_in = s.wire_in := rfl
@[simp] theorem grantTx_wire_out (s : State) : (grantTx s).wire_out = s.wire_out := rfl
@[simp] theorem grantTx_diag_log (s : State) : (grantTx s).diag_log = s.diag_log := rfl
@[simp] theorem grantTx_txs_log (s : State) : (grantTx s).txs_log = s.txs_log := rfl
@[simp] theorem grantTx_delivered (s : State) : (grantTx s).delivered = s.delivered := rfl
@[simp] theorem grantTx_rst (s : State) : (grantTx s).rst = s.rst := rfl
@[simp] theorem grantTx_rx_ev (s : State) : (grantTx s).rx_ev = s.rx_ev := rfl
@[simp] theorem grantTx_cmd (s : State) : (grantTx s).cmd = s.cmd := rfl
@[simp] theorem grantTx_sched (s : State) : (grantTx s).sched = s.sched := rfl
@[simp] theorem grantTx_resets (s : State) : (grantTx s).resets = s.resets := rfl
@[simp] theorem grantTx_rxRead (s : State) : rxRead (grantTx s) = rxRead s := rfl
@[simp] theorem grantTx_txRead (s : State) : txRead (grantTx s) = txRead s := rfl

/-! ### resetBlock -/

@[simp] theorem resetBlock_rx_state (s : State) : (resetBlock s).rx_state = .hunt := rfl
@[simp] theorem resetBlock_rx_len (s : State) : (resetBlock s).rx_len = 0#8 := rfl
@[simp] theorem resetBlock_rx_idx (s : State) : (resetBlock s).rx_idx = 0#8 := rfl
@[simp] theorem resetBlock_rx_buf (s : State) : (resetBlock s).rx_buf = [] := rfl
@[simp] theorem resetBlock_rx_fatal (s : State) : (resetBlock s).rx_fatal = .none := rfl
@[simp] theorem resetBlock_tx_state (s : State) : (resetBlock s).tx_state = .idle := rfl
@[simp] theorem resetBlock_tx_cmd (s : State) : (resetBlock s).tx_cmd = ⟨Config.resetDesc s.resets, Config.resetData s.resets⟩ := rfl
@[simp] theorem resetBlock_tx_buf (s : State) : (resetBlock s).tx_buf = [] := rfl
@[simp] theorem resetBlock_tx_cnt (s : State) : (resetBlock s).tx_cnt = 0#9 := rfl
@[simp] theorem resetBlock_tx_idx (s : State) : (resetBlock s).tx_idx = 0#9 := rfl
@[simp] theorem resetBlock_owner (s : State) : (resetBlock s).owner = .none := rfl
@[simp] theorem resetBlock_wire_in (s : State) : (resetBlock s).wire_in = s.wire_in := rfl
@[simp] theorem resetBlock_wire_out (s : State) : (resetBlock s).wire_out = s.wire_out := rfl
@[simp] theorem resetBlock_diag_log (s : State) : (resetBlock s).diag_log = s.diag_log := rfl
@[simp] theorem resetBlock_txs_log (s : State) : (resetBlock s).txs_log = s.txs_log := rfl
@[simp] theorem resetBlock_delivered (s : State) : (resetBlock s).delivered = s.delivered := rfl
@[simp] theorem resetBlock_rst (s : State) : (resetBlock s).rst = s.rst := rfl
@[simp] theorem resetBlock_rx_ev (s : State) : (resetBlock s).rx_ev = s.rx_ev := rfl
@[simp] theorem resetBlock_cmd (s : State) : (resetBlock s).cmd = s.cmd := rfl
@[simp] theorem resetBlock_sched (s : State) : (resetBlock s).sched = s.sched := rfl
@[simp] theorem resetBlock_resets (s : State) : (resetBlock s).resets = s.resets + 1 := rfl

end Sys2Proof.Machine
end

