-- ==== Sys2Proof/Laws/Ops.lean ====
section
/-! SUPPORT. For each shared operation and each internal step, one lemma that says everything it can do: the exact
condition under which it answers a next state, and that state. Later proofs cite these and unfold none of the operations. -/

namespace Sys2Proof.Machine

/-! ### Sequencing and the link -/

/-- Two next states are one exactly when the states are, read from the right. -/
theorem next_eq_next {s t : State} : (Host.Outcome.next s : Result) = .next t ↔ t = s := by
  rw [Host.Outcome.next.injEq, eq_comm]

@[simp] theorem andThen_next (s : State) (f : State → Result) : andThen (.next s) f = f s := rfl
@[simp] theorem andThen_fault (e : Fault) (f : State → Result) : andThen (.fault e) f = .fault e := rfl
@[simp] theorem andThen_refused (e : Refusal) (f : State → Result) : andThen (.refused e) f = .refused e := rfl

theorem andThen_eq_next {r : Result} {f : State → Result} {t : State} :
    andThen r f = .next t ↔ ∃ s, r = .next s ∧ f s = .next t := by
  cases r <;> simp

theorem release_eq_next {a : Owner} {s t : State} : release a s = .next t ↔ s.owner = a ∧ t = freeLink s := by
  unfold release
  split <;> simp_all [eq_comm]

theorem release_held {a : Owner} {s : State} (h : s.owner = a) : release a s = .next (freeLink s) := by
  simp [release, h]

/-! ### The exceptions -/

/-- A drop says what it does to every field: one diag record, HUNT, and RX's hold on the link gone (R124). -/
theorem raiseDrop_eq (c : DiagCode) (i : DiagInfo) (s : State) :
    raiseDrop c i s =
      { s with
        diag_log := s.diag_log ++ [(c, i)], rx_state := .hunt,
        owner := if s.owner = .rx then .none else s.owner } := by
  unfold raiseDrop
  by_cases h : s.owner = .rx <;> simp [h, diag, freeLink]

/-- A fatal termination says what it does to every field (R125). -/
theorem raiseFatal_eq (c : FatalCause) (s : State) :
    raiseFatal c s =
      { s with
        diag_log := s.diag_log ++ [(fatalDiag c, .none)], rx_fatal := fatalValue c, rx_state := .fatal,
        owner := if s.owner = .rx then .none else s.owner } := by
  unfold raiseFatal
  by_cases h : s.owner = .rx <;> simp [h, diag, freeLink]

theorem raiseTxErr_eq_next {c : TxStatus} {s t : State} :
    raiseTxErr c s = .next t ↔
      s.owner = .tx ∧ t = { s with owner := .none, txs_log := s.txs_log ++ [c], tx_state := .idle } := by
  unfold raiseTxErr
  rw [andThen_eq_next]
  simp only [release_eq_next]
  constructor
  · rintro ⟨u, ⟨h, rfl⟩, hu⟩
    exact ⟨h, by simpa [txStatus, freeLink, eq_comm] using hu⟩
  · rintro ⟨h, rfl⟩
    exact ⟨_, ⟨h, rfl⟩, by simp [txStatus, freeLink]⟩

/-! ### The scanner and the reader -/

theorem falseStart_eq_next {d : Byte} {s t : State} :
    falseStart d s = .next t ↔
      s.owner = .rx ∧
        t = { s with owner := .none, diag_log := s.diag_log ++ [(.falseStart, .byte d)], rx_state := .hunt } := by
  unfold falseStart
  rw [andThen_eq_next]
  simp only [release_eq_next]
  constructor
  · rintro ⟨u, ⟨h, rfl⟩, hu⟩
    exact ⟨h, by simpa [diag, freeLink, eq_comm] using hu⟩
  · rintro ⟨h, rfl⟩
    exact ⟨_, ⟨h, rfl⟩, by simp [diag, freeLink]⟩

theorem lenAccepted_eq (d : Byte) (s : State) :
    lenAccepted d s =
      .next { s with rx_len := d, rx_buf := memPut s.rx_buf 0 d, rx_idx := 1#8, rx_state := .body } := by
  simp [lenAccepted, memWrite_inside s.rx_buf d (show 0 < Config.rxBufSize by decide)]

theorem bodyMiddle_eq_next {d : Byte} {s t : State} :
    bodyMiddle d s = .next t ↔
      s.rx_idx.toNat < Config.rxBufSize ∧
        t = { s with rx_buf := memPut s.rx_buf s.rx_idx.toNat d, rx_idx := s.rx_idx + 1#8 } := by
  unfold bodyMiddle memWrite
  by_cases h : s.rx_idx.toNat < Config.rxBufSize <;> simp [h, eq_comm]

/-- The verdict on a stored frame: offered, or dropped for its checksum. -/
theorem verifyFrame_eq_next {s t : State} :
    verifyFrame s = .next t ↔
      ∃ received computed, frameSums (rxRead s) s.rx_len = some (received, computed) ∧
        ((computed = received ∧ s.owner = .rx ∧ t = { s with owner := .none, rx_state := .out }) ∨
          (computed ≠ received ∧ t = raiseDrop .checksumMismatch (.sums received computed) s)) := by
  unfold verifyFrame
  constructor
  · intro h
    split at h
    · cases h
    · rename_i received computed hs
      refine ⟨received, computed, hs, ?_⟩
      split at h
      · rename_i hc
        obtain ⟨u, hu, ht⟩ := andThen_eq_next.mp h
        obtain ⟨ho, rfl⟩ := release_eq_next.mp hu
        exact .inl ⟨hc, ho, by simpa [freeLink, eq_comm] using ht⟩
      · rename_i hc
        exact .inr ⟨hc, by simpa [eq_comm] using h⟩
  · rintro ⟨received, computed, hs, ⟨hc, ho, rfl⟩ | ⟨hc, rfl⟩⟩
    · simp [hs, hc, release_held ho, freeLink]
    · simp [hs, hc]

theorem bodyLast_eq_next {d : Byte} {s t : State} :
    bodyLast d s = .next t ↔
      Config.minLen ≤ s.rx_len.toNat ∧ s.rx_idx.toNat < Config.rxBufSize ∧
        verifyFrame { s with rx_buf := memPut s.rx_buf s.rx_idx.toNat d, rx_idx := s.rx_len } = .next t := by
  unfold bodyLast memWrite
  by_cases h1 : s.rx_len.toNat < Config.minLen
  · simp [h1]
  · by_cases h2 : s.rx_idx.toNat < Config.rxBufSize
    · simp [h1, h2, Nat.le_of_not_lt h1]
    · simp [h1, h2]

theorem deliver_eq_next {s t : State} :
    deliver s = .next t ↔
      Config.minLen ≤ s.rx_len.toNat ∧ ∃ f, foRecord (rxRead s) s.rx_len = some f ∧
        t = { s with delivered := s.delivered ++ [f], rx_state := .hunt } := by
  unfold deliver
  by_cases h : s.rx_len.toNat < Config.minLen
  · simp [h]
  · cases hf : foRecord (rxRead s) s.rx_len <;> simp [h, Nat.le_of_not_lt h, eq_comm]

/-! ### The transmitter -/

theorem loadImage_eq_next {img : List Byte} {s t : State} :
    loadImage img s = .next t ↔
      ∃ m, memWriteList Config.txBufSize s.tx_buf 0 img = some m ∧
        t = { s with tx_buf := m, tx_cnt := BitVec.ofNat 9 img.length, tx_idx := 0#9, tx_state := .emit } := by
  unfold loadImage
  cases h : memWriteList Config.txBufSize s.tx_buf 0 img <;> simp [eq_comm]

theorem encEncode_eq_next {serr : Bool} {n : Byte} {op : U16} {hdr : HdrBytes} {pay : List Byte} {s t : State} :
    encEncode serr n op hdr pay s = .next t ↔
      (serr = true ∧ raiseTxErr .encErrSerialize s = .next t) ∨
      (serr = false ∧ Config.maxPayload < n.toNat ∧ raiseTxErr .encErrLength s = .next t) ∨
      (serr = false ∧ n.toNat ≤ Config.maxPayload ∧ loadImage (wireImage (encodeFrame n op hdr pay)) s = .next t) := by
  unfold encEncode
  cases serr
  · by_cases h : Config.maxPayload < n.toNat
    · simp [h, Nat.not_le_of_lt h]
    · simp [h, Nat.le_of_not_lt h]
  · simp

theorem encStep_eq_next {s t : State} :
    encStep s = .next t ↔
      (∃ serr n op hdr pay, decodeCommand s.tx_cmd = .encode serr n op hdr pay ∧
        encEncode serr n op hdr pay s = .next t) ∨
      (∃ m bs, decodeCommand s.tx_cmd = .raw m bs ∧ encRaw bs s = .next t) := by
  unfold encStep
  cases h : decodeCommand s.tx_cmd <;> simp

theorem emitStep_eq_next {a : Ack} {s t : State} :
    emitStep a s = .next t ↔
      ∃ b, txRead s s.tx_idx.toNat = some b ∧ afterAck a { s with wire_out := s.wire_out ++ [(b, a)] } = .next t := by
  unfold emitStep
  cases h : txRead s s.tx_idx.toNat <;> simp

/-- What follows SNK's answer: the frame abandoned, finished, or one byte further (R120). -/
theorem afterAck_eq_next {a : Ack} {s t : State} :
    afterAck a s = .next t ↔
      (a = .error ∧ raiseTxErr .txWriteError s = .next t) ∨
      (a = .ok ∧ s.tx_idx.toNat + 1 = s.tx_cnt.toNat ∧ s.owner = .tx ∧
        t = { s with owner := .none, txs_log := s.txs_log ++ [.txDone], tx_state := .idle }) ∨
      (a = .ok ∧ s.tx_idx.toNat + 1 ≠ s.tx_cnt.toNat ∧ t = { s with tx_idx := s.tx_idx + 1#9 }) := by
  cases a
  · simp only [afterAck]
    split
    · rename_i h
      rw [andThen_eq_next]
      simp only [release_eq_next]
      constructor
      · rintro ⟨u, ⟨ho, rfl⟩, hu⟩
        exact .inr (.inl ⟨trivial, h, ho, by simpa [txStatus, freeLink, eq_comm] using hu⟩)
      · rintro (⟨h', -⟩ | ⟨-, -, ho, rfl⟩ | ⟨-, hne, -⟩)
        · cases h'
        · exact ⟨_, ⟨ho, rfl⟩, by simp [txStatus, freeLink]⟩
        · exact absurd h hne
    · rename_i h
      simp [h, eq_comm]
  · simp [afterAck]

/-! ### The turns -/

theorem arbTurn_cases (c : Grantee) (s : State) :
    (arbTurn c s = grantRx s ∧ s.owner = .none ∧ s.rx_state = .acq) ∨
    (arbTurn c s = grantTx s ∧ s.owner = .none ∧ s.tx_state = .acq) ∨
    (arbTurn c s = s ∧ (s.owner = .none → s.rx_state ≠ .acq ∧ s.tx_state ≠ .acq)) := by
  have hr : grantRxEnabled s = true ↔ s.owner = .none ∧ s.rx_state = .acq := by simp [grantRxEnabled, rxReq]
  have ht : grantTxEnabled s = true ↔ s.owner = .none ∧ s.tx_state = .acq := by simp [grantTxEnabled, txReq]
  unfold arbTurn
  rcases hrv : grantRxEnabled s with _ | _ <;> rcases htv : grantTxEnabled s with _ | _ <;> cases c <;>
    simp_all

theorem hostTurn_eq_next {op : HostOp} {s t : State} :
    hostTurn op s = .next t ↔
      (op = .reset ∧ t = resetBlock { s with rst := true }) ∨
      (op = .start ∧ s.rst = true ∧ t = { s with rst := false }) ∨
      (∃ r, op = .send r ∧ t = { s with cmd := s.cmd ++ [r] }) ∨
      (op = .closeQueue ∧ t = { s with cmd := s.cmd ++ [closeRecord] }) ∨
      (op = .closeStream ∧ t = { s with rx_ev := eventWord 3#2 0#8 :: s.rx_ev }) := by
  cases op with
  | start => cases h : s.rst <;> simp [hostTurn, h, next_eq_next, -Host.Outcome.next.injEq]
  | _ => simp [hostTurn, next_eq_next, -Host.Outcome.next.injEq]

theorem rxStep_eq_next {s t : State} :
    rxStep s = .next t ↔
      (∃ w ws, rxEvReady s = true ∧ s.rx_ev = w :: ws ∧ exec (decodeEvent w) (takeEvent w ws s) = .next t) ∨
      ((rxEvReady s = false ∨ s.rx_ev = []) ∧ t = s) := by
  unfold rxStep
  cases hr : rxEvReady s
  · simp [next_eq_next, -Host.Outcome.next.injEq]
  · cases he : s.rx_ev <;> simp [next_eq_next, -Host.Outcome.next.injEq]

theorem rxTurn_eq_next {f : Bool} {s t : State} :
    rxTurn f s = .next t ↔
      (s.rx_state = .out ∧ f = true ∧ deliver s = .next t) ∨
      (s.rx_state = .out ∧ f = false ∧ t = s) ∨
      (s.rx_state ≠ .out ∧ rxStep s = .next t) := by
  unfold rxTurn
  by_cases h : s.rx_state = .out <;> cases f <;> simp [foValid, h, next_eq_next, -Host.Outcome.next.injEq]

theorem acceptStep_eq_next {s t : State} :
    acceptStep s = .next t ↔
      (∃ r rs, s.cmd = r :: rs ∧ exec (decodeCommand r) (takeRecord rs s) = .next t) ∨ (s.cmd = [] ∧ t = s) := by
  unfold acceptStep
  cases h : s.cmd <;> simp [next_eq_next, -Host.Outcome.next.injEq]

theorem txTurn_eq_next {a : Option Ack} {s t : State} :
    txTurn a s = .next t ↔
      (s.tx_state = .idle ∧ acceptStep s = .next t) ∨
      (s.tx_state = .enc ∧ encStep s = .next t) ∨
      (∃ k, s.tx_state = .emit ∧ a = some k ∧ emitStep k s = .next t) ∨
      (((s.tx_state = .emit ∧ a = none) ∨ s.tx_state = .acq ∨ s.tx_state = .closed) ∧ t = s) := by
  unfold txTurn
  cases h : s.tx_state <;> cases a <;> simp [next_eq_next, -Host.Outcome.next.injEq]

/-- Everything one step can do: nothing is scheduled, or the next turn is HOST's, a reset, RX's, TX's or the arbiter's. -/
theorem step_eq_next {s t : State} :
    step s = .next t ↔
      (s.sched = [] ∧ t = s) ∨
      ∃ u us, s.sched = u :: us ∧
        ((∃ op, u = .host op ∧ hostTurn op { s with sched := us } = .next t) ∨
          ((∀ op, u ≠ .host op) ∧ s.rst = true ∧ t = resetBlock { s with sched := us }) ∨
          (∃ f, u = .rx f ∧ s.rst = false ∧ rxTurn f { s with sched := us } = .next t) ∨
          (∃ a, u = .tx a ∧ s.rst = false ∧ txTurn a { s with sched := us } = .next t) ∨
          (∃ c, u = .arb c ∧ s.rst = false ∧ t = arbTurn c { s with sched := us })) := by
  unfold step nextTurn
  cases hs : s.sched with
  | nil => simp [next_eq_next, -Host.Outcome.next.injEq]
  | cons u us =>
    cases u with
    | host op => simp [takeTurn]
    | rx f => cases hr : s.rst <;> cases f <;> simp [takeTurn, next_eq_next, -Host.Outcome.next.injEq]
    | tx a => cases hr : s.rst <;> simp [takeTurn, next_eq_next, -Host.Outcome.next.injEq]
    | arb c => cases hr : s.rst <;> simp [takeTurn, next_eq_next, -Host.Outcome.next.injEq]

end Sys2Proof.Machine
end

