-- ==== Sys2Proof/Laws/Exec.lean ====
section
/-! SUPPORT. What the meanings can do, once each: every case of a BYTE by RX state, every case of an RX operation, and every
case of a TX command. -/

namespace Sys2Proof.Machine

/-- Everything a `BYTE` can do. -/
theorem execByte_cases {d : Byte} {s t : State} (h : execByte d s = .next t) :
    ((s.rx_state = .acq ∨ s.rx_state = .out ∨ s.rx_state = .fatal) ∧ t = s) ∨
    (s.rx_state = .hunt ∧ d = Config.marker ∧ t = { s with rx_state := .acq }) ∨
    (s.rx_state = .hunt ∧ d ≠ Config.marker ∧ t = diag .unsyncedByte (.byte d) s) ∨
    (s.rx_state = .seen1 ∧ d = Config.marker ∧ t = { s with rx_state := .len }) ∨
    (s.rx_state = .seen1 ∧ d ≠ Config.marker ∧ s.owner = .rx ∧
      t = { s with owner := .none, diag_log := s.diag_log ++ [(.falseStart, .byte d)], rx_state := .hunt }) ∨
    (s.rx_state = .len ∧ Config.minLen ≤ d.toNat ∧
      t = { s with rx_len := d, rx_buf := memPut s.rx_buf 0 d, rx_idx := 1#8, rx_state := .body }) ∨
    (s.rx_state = .len ∧ d.toNat < Config.minLen ∧ t = raiseDrop .shortLength (.byte d) s) ∨
    (s.rx_state = .body ∧ s.rx_idx.toNat + 1 < s.rx_len.toNat ∧
      t = { s with rx_buf := memPut s.rx_buf s.rx_idx.toNat d, rx_idx := s.rx_idx + 1#8 }) ∨
    (s.rx_state = .body ∧ s.rx_len.toNat ≤ s.rx_idx.toNat + 1 ∧
      verifyFrame { s with rx_buf := memPut s.rx_buf s.rx_idx.toNat d, rx_idx := s.rx_len } = .next t) := by
  unfold execByte at h
  cases hs : s.rx_state with
  | hunt =>
    simp only [hs, huntByte] at h
    split at h
    · rename_i hd
      exact .inr (.inl ⟨rfl, hd, next_eq_next.mp h⟩)
    · rename_i hd
      exact .inr (.inr (.inl ⟨rfl, hd, next_eq_next.mp h⟩))
  | seen1 =>
    simp only [hs, seen1Byte] at h
    split at h
    · rename_i hd
      exact .inr (.inr (.inr (.inl ⟨rfl, hd, next_eq_next.mp h⟩)))
    · rename_i hd
      obtain ⟨ho, h⟩ := falseStart_eq_next.mp h
      exact .inr (.inr (.inr (.inr (.inl ⟨rfl, hd, ho, h⟩))))
  | len =>
    simp only [hs, lenByte] at h
    split at h
    · rename_i hd
      rw [lenAccepted_eq] at h
      exact .inr (.inr (.inr (.inr (.inr (.inl ⟨rfl, hd, next_eq_next.mp h⟩)))))
    · rename_i hd
      exact .inr (.inr (.inr (.inr (.inr (.inr (.inl ⟨rfl, Nat.lt_of_not_le hd, next_eq_next.mp h⟩))))))
  | body =>
    simp only [hs, bodyByte] at h
    split at h
    · rename_i hi
      obtain ⟨-, h⟩ := bodyMiddle_eq_next.mp h
      exact .inr (.inr (.inr (.inr (.inr (.inr (.inr (.inl ⟨rfl, hi, by rw [h]; simp [hs]⟩)))))))
    · rename_i hi
      obtain ⟨-, -, h⟩ := bodyLast_eq_next.mp h
      exact .inr (.inr (.inr (.inr (.inr (.inr (.inr (.inr ⟨rfl, Nat.le_of_not_lt hi, by rw [← h]; simp [hs]⟩)))))))
  | acq | out | fatal =>
    simp only [hs] at h
    exact .inl ⟨by simp, next_eq_next.mp h⟩

/-- What a `TIMEOUT` does. -/
theorem execTimeout_eq (s : State) :
    execTimeout s =
      .next (if s.rx_state = .len ∨ s.rx_state = .body then raiseDrop .readTimeout (.index s.rx_idx) s else s) := by
  unfold execTimeout
  cases h : s.rx_state <;> simp [scanTimeout, frameTimeout]

/-- What an `ERROR` does. -/
theorem execError_eq (s : State) : execError s = .next (if rxEvReady s = true then raiseFatal .error s else s) := by
  unfold execError
  cases rxEvReady s <;> simp

/-- What a `CLOSED` does. -/
theorem execClosed_eq (s : State) : execClosed s = .next (if rxEvReady s = true then raiseFatal .closed s else s) := by
  unfold execClosed
  cases rxEvReady s <;> simp

/-- Everything the operation of an event word can do where RX is ready for it. -/
theorem execEvent_cases {w : EventWord} {s t : State} (hr : rxEvReady s = true)
    (h : exec (decodeEvent w) s = .next t) :
    (∃ d, decodeEvent w = .byte d ∧ execByte d s = .next t) ∨
    (decodeEvent w = .timeout ∧
      t = if s.rx_state = .len ∨ s.rx_state = .body then raiseDrop .readTimeout (.index s.rx_idx) s else s) ∨
    (decodeEvent w = .error ∧ t = raiseFatal .error s) ∨
    (decodeEvent w = .closed ∧ t = raiseFatal .closed s) := by
  rcases decodeEvent_cases w with ⟨-, hw⟩ | ⟨-, hw⟩ | ⟨-, hw⟩ | ⟨-, hw⟩ <;> rw [hw] at h ⊢ <;> simp only [exec] at h
  · exact .inl ⟨_, rfl, h⟩
  · rw [execTimeout_eq, next_eq_next] at h
    exact .inr (.inl ⟨rfl, h⟩)
  · rw [execError_eq, next_eq_next, if_pos hr] at h
    exact .inr (.inr (.inl ⟨rfl, h⟩))
  · rw [execClosed_eq, next_eq_next, if_pos hr] at h
    exact .inr (.inr (.inr ⟨rfl, h⟩))

/-- What a command does where TX is ready for it. -/
theorem execEncode_ready {serr : Bool} {n : Byte} {op : U16} {hdr : HdrBytes} {pay : List Byte} {s : State}
    (h : cmdReady s = true) :
    execEncode serr n op hdr pay s = .next (latchCommand (encodeRecord serr n op hdr pay) s) := by
  simp [execEncode, h]

theorem execRaw_ready {m : Byte} {bytes : List Byte} {s : State} (h : cmdReady s = true) :
    execRaw m bytes s = .next (latchCommand (rawRecord m bytes) s) := by
  simp [execRaw, h]

theorem execClose_ready {s : State} (h : cmdReady s = true) :
    execClose s = .next { txStatus .closedOk s with tx_state := .closed } := by
  simp [execClose, h]

theorem execIllegal_ready {r : CmdRecord} {s : State} (h : cmdReady s = true) :
    execIllegal r s = .next (txStatus .illegalCmd s) := by
  simp [execIllegal, h]

/-- Everything the operation of a record can do where TX is ready for it: the record is latched, TX closes, or the record is
discarded. -/
theorem execCommand_cases {r : CmdRecord} {s : State} (h : cmdReady s = true) :
    ((∃ serr n op hdr pay, decodeCommand r = .encode serr n op hdr pay) ∧
      exec (decodeCommand r) s = .next (latchCommand r s)) ∨
    ((∃ m bytes, decodeCommand r = .raw m bytes) ∧ exec (decodeCommand r) s = .next (latchCommand r s)) ∨
    (decodeCommand r = .close ∧ exec (decodeCommand r) s = .next { txStatus .closedOk s with tx_state := .closed }) ∨
    (decodeCommand r = .illegal r ∧ exec (decodeCommand r) s = .next (txStatus .illegalCmd s)) := by
  rcases decodeCommand_cases r with ⟨hdr, pay, hk, hr, hd, -, he⟩ | ⟨hk, hr, -, he⟩ | ⟨-, -, he⟩ | ⟨-, -, -, he⟩ <;> rw [he]
  · have hrec : encodeRecord (descSerr r.desc) (descN r.desc) (descMsgop r.desc) hdr pay = r := by
      have := encodeRecord_of_fields hk hr hdr pay
      rcases r with ⟨d, l⟩
      rw [CmdRecord.mk.injEq]
      exact ⟨this, hd.symm⟩
    exact .inl ⟨⟨_, _, _, _, _, rfl⟩, by rw [exec, execEncode_ready h, hrec]⟩
  · have hrec : rawRecord (descM r.desc) r.data = r := by
      have := rawRecord_of_fields hk hr r.data
      rcases r with ⟨d, l⟩
      rw [CmdRecord.mk.injEq]
      exact ⟨this, rfl⟩
    exact .inr (.inl ⟨⟨_, _, rfl⟩, by rw [exec, execRaw_ready h, hrec]⟩)
  · exact .inr (.inr (.inl ⟨rfl, execClose_ready h⟩))
  · exact .inr (.inr (.inr ⟨rfl, execIllegal_ready (r := r) h⟩))

end Sys2Proof.Machine
end

