-- ==== Sys2Proof/Laws/PerInstr.lean ====
section
/-! SUPPORT. The statements made per instruction (LAWS.json): each family's Statement and one lemma per constructor of
Instr. -/

/-- R77: a decoder knows the extent of every legal command from its descriptor alone, and an RX event carries no data. -/
def Sys2Proof.Laws.EncodedExtent.Statement (i : Sys2Proof.Instr) : Prop :=
  i.wellFormed = true → (∀ r, i ≠ .illegal r) →
    ∀ r, Sys2Proof.encode i = .cmd r → r.data.length = Sys2Proof.descExtent r.desc

theorem Sys2Proof.Laws.EncodedExtent.byte (d : Sys2Proof.Byte) :
    Sys2Proof.Laws.EncodedExtent.Statement (.byte d) :=
  fun _ _ _ h => nomatch h

theorem Sys2Proof.Laws.EncodedExtent.timeout : Sys2Proof.Laws.EncodedExtent.Statement .timeout :=
  fun _ _ _ h => nomatch h

theorem Sys2Proof.Laws.EncodedExtent.error : Sys2Proof.Laws.EncodedExtent.Statement .error :=
  fun _ _ _ h => nomatch h

theorem Sys2Proof.Laws.EncodedExtent.closed : Sys2Proof.Laws.EncodedExtent.Statement .closed :=
  fun _ _ _ h => nomatch h

theorem Sys2Proof.Laws.EncodedExtent.encode (serr : Bool) (n : Sys2Proof.Byte) (msgop : Sys2Proof.U16)
    (hdr : Sys2Proof.HdrBytes) (pay : List Sys2Proof.Byte) :
    Sys2Proof.Laws.EncodedExtent.Statement (.encode serr n msgop hdr pay) := by
  intro hw _ r h
  obtain ⟨hk, -, -, hn, -⟩ := Sys2Proof.encodeRecord_fields serr n msgop hdr pay
  simp only [Sys2Proof.encode, Sys2Proof.Input.cmd.injEq] at h
  subst h
  simp only [Sys2Proof.Instr.wellFormed, beq_iff_eq] at hw
  rw [Sys2Proof.descExtent, if_pos hk, hn]
  show (hdr.toList ++ pay).length = _
  simp [hw]

theorem Sys2Proof.Laws.EncodedExtent.raw (m : Sys2Proof.Byte) (bytes : List Sys2Proof.Byte) :
    Sys2Proof.Laws.EncodedExtent.Statement (.raw m bytes) := by
  intro hw _ r h
  obtain ⟨hk, -, hm⟩ := Sys2Proof.rawRecord_fields m bytes
  simp only [Sys2Proof.encode, Sys2Proof.Input.cmd.injEq] at h
  subst h
  simp only [Sys2Proof.Instr.wellFormed, beq_iff_eq] at hw
  rw [Sys2Proof.descExtent, if_neg (by rw [hk]; decide), if_pos hk, hm]
  exact hw

theorem Sys2Proof.Laws.EncodedExtent.close : Sys2Proof.Laws.EncodedExtent.Statement .close := by
  intro _ _ r h
  simp only [Sys2Proof.encode, Sys2Proof.Input.cmd.injEq] at h
  subst h
  decide

theorem Sys2Proof.Laws.EncodedExtent.illegal (r : Sys2Proof.CmdRecord) :
    Sys2Proof.Laws.EncodedExtent.Statement (.illegal r) :=
  fun _ h => absurd rfl (h r)
end

