-- ==== Sys2Proof/Tests/Slice0.lean ====
section
/-! SUPPORT. The implementer's own tests. Expected results come from the spec: the encoding tables of 30_encoding.md, the
vectors V1 to V5 of 95_test_vectors.md, and hand calculation from the rules named. -/

namespace Sys2Proof.Machine.Tests

/-- The next state of a result, if it is one. -/
def after : Result → Option State
  | .next s => some s
  | _ => none

/-- Header bytes `H` of V4. -/
def hdrH : HdrBytes := ⟨0x03, 0xFE, 0xFF, 0xFE, 0x00, 0x00, 0x01, 0x1C⟩

/-- RX holding the link in the given state. -/
def rxAt (x : RxState) : State := { State.reset with rx_state := x, owner := .rx }

/-- TX emitting the two bytes AA 07, at the index `i`. -/
def emitAt (i : BitVec 9) : State :=
  { State.reset with
    tx_state := .emit, owner := .tx, tx_buf := [(0, 0xAA#8), (1, 0x07#8)], tx_cnt := 2#9, tx_idx := i }

/-! ### WellFormed (30_encoding.md R71, R72, R74): an ill-formed term for each check -/

theorem test_wf_encode_count : (Instr.encode false 2 0x31 hdrH [0x02]).wellFormed = false := by decide
theorem test_wf_raw_count : (Instr.raw 1 []).wellFormed = false := by decide
theorem test_wf_illegal_legal_close : (Instr.illegal ⟨0x80000000#32, []⟩).wellFormed = false := by decide
theorem test_wf_illegal_legal_raw : (Instr.illegal ⟨0x40000001#32, [0x05]⟩).wellFormed = false := by decide
theorem test_wf_illegal_legal_encode :
    (Instr.illegal ⟨0x00000031#32, hdrH.toList⟩).wellFormed = false := by decide
theorem test_wf_well : (Instr.encode true 1 0x31 hdrH [0x02]).wellFormed = true ∧
    (Instr.raw 1 [0x05]).wellFormed = true ∧ (Instr.illegal ⟨0x80000001#32, []⟩).wellFormed = true := by decide

/-! ### Decoding: words written out from 30_encoding.md R67, R70 to R74, R78 and the vectors V1, V4 -/

theorem test_decode_byte : decodeEvent 0b0010101010#10 = .byte 0xAA ∧ decodeEvent 0b0011111111#10 = .byte 0xFF := by
  decide
theorem test_decode_timeout : decodeEvent 0b0100000000#10 = .timeout ∧ decodeEvent 0b0110101010#10 = .timeout := by
  decide
theorem test_decode_error : decodeEvent 0b1000000000#10 = .error ∧ decodeEvent 0b1010101010#10 = .error := by decide
theorem test_decode_closed : decodeEvent 0b1100000000#10 = .closed ∧ decodeEvent 0b1111111111#10 = .closed := by decide
/-- T1 and T5: kind 00, SERR bit 29, N in 23:16, MSGOP in 15:0. -/
theorem test_decode_encode :
    decodeCommand ⟨0b00000000000001000000000000110001#32, hdrH.toList ++ [0x02, 0x64, 0x00, 0x00]⟩ =
      .encode false 4 0x0031 hdrH [0x02, 0x64, 0x00, 0x00] ∧
    decodeCommand ⟨0b00100000000001000000000000110001#32, hdrH.toList ++ [0x00, 0x00, 0x00, 0x00]⟩ =
      .encode true 4 0x0031 hdrH [0x00, 0x00, 0x00, 0x00] := by decide
/-- T8's kind and count, and T9. -/
theorem test_decode_raw :
    decodeCommand ⟨0b01000000000000000000000000000011#32, [0x0B, 0x04, 0xBB]⟩ = .raw 3 [0x0B, 0x04, 0xBB] ∧
    decodeCommand ⟨0b01000000000000000000000000000000#32, []⟩ = .raw 0 [] := by decide
theorem test_decode_close : decodeCommand ⟨0b10000000000000000000000000000000#32, []⟩ = .close := by decide
/-- T11, T12, T13, T14: a reserved bit, a byte short, kind 11, a reserved bit of CLOSE; and CLOSE with data. -/
theorem test_decode_illegal :
    decodeCommand ⟨0x01040031#32, hdrH.toList ++ [0, 0, 0, 0]⟩ = .illegal ⟨0x01040031#32, hdrH.toList ++ [0, 0, 0, 0]⟩ ∧
    decodeCommand ⟨0x00040031#32, hdrH.toList ++ [0, 0, 0]⟩ = .illegal ⟨0x00040031#32, hdrH.toList ++ [0, 0, 0]⟩ ∧
    decodeCommand ⟨0xC0000000#32, []⟩ = .illegal ⟨0xC0000000#32, []⟩ ∧
    decodeCommand ⟨0x80000001#32, []⟩ = .illegal ⟨0x80000001#32, []⟩ ∧
    decodeCommand ⟨0x80000000#32, [0x00]⟩ = .illegal ⟨0x80000000#32, [0x00]⟩ := by decide
theorem test_table_words :
    decodeTableWord 16 0x1AA = some .timeout ∧ decodeTableWord 32 0x80000000 = some .close ∧
    decodeTableWord 32 0x40000002 = some (.raw 2 [0, 0]) ∧ decodeTableWord 8 0 = none := by decide

/-! ### The RX operations (V2, V3) -/

/-- S1: a byte that is no marker is discarded with a record. -/
theorem test_byte_hunt_discards :
    (after (exec (.byte 0x00) State.reset)).map (fun t => (t.rx_state, t.diag_log)) =
      some (.hunt, [(.unsyncedByte, .byte 0x00)]) := by decide
/-- The third byte of S13: 0xAA in LEN is a length of 170. -/
theorem test_byte_third_marker_is_length :
    (after (exec (.byte 0xAA) (rxAt .len))).map (fun t => (t.rx_state, t.rx_len, t.rx_idx, rxRead t 0)) =
      some (.body, 0xAA, 1, some 0xAA) := by decide
/-- S8: ownership is kept across a timeout in SEEN1. -/
theorem test_timeout_seen1_keeps : exec .timeout (rxAt .seen1) = .next (rxAt .seen1) := by rfl
/-- F5's last event: the info is `rx_idx`. -/
theorem test_timeout_body_drops :
    (after (exec .timeout { rxAt .body with rx_len := 15, rx_idx := 4 })).map
      (fun t => (t.rx_state, t.owner, t.diag_log, t.rx_idx)) =
      some (.hunt, .none, [(.readTimeout, .index 4)], 4) := by decide
/-- S10. -/
theorem test_error_hunt :
    (after (exec .error State.reset)).map (fun t => (t.rx_state, t.rx_fatal, connState t, t.diag_log)) =
      some (.fatal, .error, .draining, [(.fatalReadError, .none)]) := by decide
/-- S11. -/
theorem test_closed_seen1_releases :
    (after (exec .closed (rxAt .seen1))).map (fun t => (t.rx_state, t.rx_fatal, t.owner)) =
      some (.fatal, .closed, .none) := by decide

/-! ### The TX commands (V4) -/

/-- The descriptor latched for T5 is the one it was written from. -/
theorem test_encode_latched :
    (after (exec (.encode true 4 0x0031 hdrH [0, 0, 0, 0]) State.reset)).map (fun t => (t.tx_state, t.tx_cmd)) =
      some (.acq, ⟨0x20040031#32, hdrH.toList ++ [0, 0, 0, 0]⟩) := by decide
theorem test_raw_latched :
    (after (exec (.raw 2 [0x0B, 0x04]) State.reset)).map (fun t => (t.tx_state, t.tx_cmd, t.owner)) =
      some (.acq, ⟨0x40000002#32, [0x0B, 0x04]⟩, .none) := by decide
/-- T15. -/
theorem test_close :
    (after (exec .close State.reset)).map (fun t => (t.tx_state, t.txs_log, connState t)) =
      some (.closed, [.closedOk], .draining) := by decide
/-- T13. -/
theorem test_illegal :
    (after (exec (.illegal ⟨0xC0000000#32, []⟩) State.reset)).map (fun t => (t.tx_state, t.txs_log, t.tx_cmd.data)) =
      some (.idle, [.illegalCmd], []) := by decide

/-! ### The internal steps (V4, V5) -/

/-- T9: a RAW of no bytes is the marker alone. -/
theorem test_enc_raw_empty :
    (after (encStep { State.reset with tx_state := .enc, owner := .tx, tx_cmd := ⟨0x40000000#32, []⟩ })).map
      (fun t => (t.tx_state, t.tx_buf, t.tx_cnt, t.tx_idx)) =
      some (.emit, [(0, 0xAA#8), (1, 0xAA#8)], 2, 0) := by decide
/-- T6's order of checks on a record with SERR set: nothing is assembled, ownership is given back (R117). -/
theorem test_enc_serialize_error :
    (after (encStep { State.reset with
      tx_state := .enc, owner := .tx, tx_cmd := ⟨0x20000031#32, hdrH.toList⟩ })).map
      (fun t => (t.tx_state, t.owner, t.txs_log, t.tx_buf)) = some (.idle, .none, [.encErrSerialize], []) := by decide
/-- The last byte answered OK finishes the frame (R120). -/
theorem test_emit_last :
    (after (emitStep .ok (emitAt 1))).map (fun t => (t.wire_out, t.tx_state, t.owner, t.txs_log)) =
      some ([(0x07#8, .ok)], .idle, .none, [.txDone]) := by decide
/-- T16's last byte: an ERROR abandons the frame. -/
theorem test_emit_error :
    (after (emitStep .error (emitAt 0))).map (fun t => (t.wire_out, t.tx_state, t.owner, t.txs_log)) =
      some ([(0xAA#8, .error)], .idle, .none, [.txWriteError]) := by decide
/-- R141: after a reset each byte of a buffer holds some value, and there is no byte past its end. -/
theorem test_reset_buffers :
    rxRead State.reset 254 = some (Config.resetRxByte 0 254) ∧ rxRead State.reset 255 = none ∧
    txRead (resetBlock (emitAt 1)) 256 = some (Config.resetTxByte 1 256) ∧
    txRead (resetBlock (emitAt 1)) 257 = none := ⟨rfl, rfl, rfl, rfl⟩
/-- A2: both grants are admitted. -/
theorem test_both_grants :
    (arbTurn .rx { State.reset with rx_state := .acq, tx_state := .acq }).owner = .rx ∧
    (arbTurn .tx { State.reset with rx_state := .acq, tx_state := .acq }).owner = .tx := by decide
/-- A3: no grant while TX owns the link. -/
theorem test_no_grant :
    arbTurn .rx { emitAt 0 with rx_state := .acq } = { emitAt 0 with rx_state := .acq } := by decide

/-! ### The checksum candidate (40_checksum.md R87), its published check value and a row of 95_test_vectors.md -/

theorem test_crc_check_value :
    crc16Xmodem [0x31, 0x32, 0x33, 0x34, 0x35, 0x36, 0x37, 0x38, 0x39] = 0x31C3 := by decide +kernel
theorem test_crc_vector : crc16Xmodem [0x0B, 0x01, 0x02, 0x00, 0x10, 0x00, 0x31, 0x03, 0x04] = 0xC093 := by decide +kernel

/-! ### The fetch -/

theorem test_fetch_event :
    (after (step (State.reset.withFetchWord 16 0x0AA))).map (fun t => (t.rx_state, t.wire_in, t.rx_ev)) =
      some (.acq, [0x0AA#10], []) := by decide
theorem test_fetch_command :
    (after (step (State.reset.withFetchWord 32 0x80000000))).map (fun t => (t.tx_state, t.cmd)) =
      some (.closed, []) := by decide

end Sys2Proof.Machine.Tests
end

