-- ==== Sys2Proof/Tests/Witness.lean ====
section
/-! SUPPORT. For every statement of Certificates/Slice0/Obligations.lean that has hypotheses: a concrete state and operands
that meet them together, and where a statement has several clauses one for each, at the boundary values where they meet.
No statement is proved here. -/

namespace Sys2Proof.Machine.Tests

/-! ### Concrete states -/

/-- The bytes 0..8 of a frame of length 11: the checksum is computed over them. -/
def nineBytes : List Byte := [0x0B, 0, 0, 0, 0, 0, 0, 0, 0]

/-- Their checksum. -/
def nineSum : U16 := Config.checksum16 nineBytes

/-- BODY with one byte of an 11-byte frame still to come, the high checksum byte stored. -/
def bodyW (evs : List EventWord) (turns : List Turn) : State :=
  { State.reset with
    rx_state := .body, owner := .rx, rx_len := 11#8, rx_idx := 10#8, rx_ev := evs, sched := turns,
    rx_buf := [(0, 0x0B), (1, 0), (2, 0), (3, 0), (4, 0), (5, 0), (6, 0), (7, 0), (8, 0), (9, hi8 nineSum)] }

/-- OUT with a frame of 11 bytes that passed the verifier. -/
def outW (turns : List Turn) : State :=
  { State.reset with
    rx_state := .out, rx_len := 11#8, rx_idx := 11#8, sched := turns,
    rx_buf := [(0, 0x0B), (1, 0), (2, 0), (3, 0), (4, 0), (5, 0), (6, 0), (7, 0), (8, 0), (9, hi8 nineSum),
      (10, lo8 nineSum)] }

/-- EMIT with the image of a RAW of no bytes, and what SRC offers to a RX in HUNT. -/
def emitW (evs : List EventWord) (turns : List Turn) : State :=
  { State.reset with
    tx_state := .emit, owner := .tx, tx_buf := [(0, 0xAA#8), (1, 0xAA#8)], tx_cnt := 2#9, rx_ev := evs, sched := turns }

/-- Both paths ended. -/
def endedW (turns : List Turn) : State :=
  { State.reset with rx_state := .fatal, rx_fatal := .closed, tx_state := .closed, sched := turns }

/-- ENC with the given command, one turn of TX to come. -/
def encW (r : CmdRecord) : State :=
  { State.reset with tx_state := .enc, owner := .tx, tx_cmd := r, sched := [.tx none] }

/-- An index past every index of the array holds nothing. -/
theorem memRead_past {m : Memory} {n a : Nat} (h : (m.all fun c => decide (c.1 < n)) = true) (ha : n ≤ a) :
    memRead m a = none := by
  induction m with
  | nil => rfl
  | cons c m ih =>
    simp only [List.all_cons, Bool.and_eq_true, decide_eq_true_eq] at h
    have hne : a ≠ c.1 := by omega
    simp [memRead, hne, ih h.2]

/-- The indices of a range all read. -/
theorem written_of_range {m : Memory} {n : Nat} (h : ((List.range n).all fun a => (memRead m a).isSome) = true) :
    Written m n := fun a ha => List.all_eq_true.mp h a (List.mem_range.mpr ha)

theorem bodyW_inv (evs : List EventWord) (turns : List Turn) : Inv (bodyW evs turns) where
  rxWf := rfl
  txWf := rfl
  rxBounds _ h := memRead_past rfl h
  txBounds _ _ := rfl
  rxOwns := by simp [bodyW, rxHolds]
  txOwns := by simp [bodyW, State.reset, txHolds]
  body _ :=
    ⟨show 11 ≤ 11 by decide, show 1 ≤ 10 by decide, show 10 < 11 by decide, written_of_range rfl, rfl⟩
  out h := by simp [bodyW] at h
  fatal := by simp [bodyW, State.reset]
  pending h := by simp [bodyW, State.reset] at h
  emit h := by simp [bodyW, State.reset] at h

theorem outW_sums (turns : List Turn) :
    frameSums (rxRead (outW turns)) (outW turns).rx_len = some (nineSum, nineSum) := by
  show some (be16 (hi8 nineSum) (lo8 nineSum), nineSum) = _
  rw [be16_hi8_lo8]

theorem outW_inv (turns : List Turn) : Inv (outW turns) where
  rxWf := rfl
  txWf := rfl
  rxBounds _ h := memRead_past rfl h
  txBounds _ _ := rfl
  rxOwns := by simp [outW, State.reset, rxHolds]
  txOwns := by simp [outW, State.reset, txHolds]
  body h := by simp [outW] at h
  out _ := ⟨show 11 ≤ 11 by decide, written_of_range rfl, rfl, by simp [ckOk, outW_sums]⟩
  fatal := by simp [outW, State.reset]
  pending h := by simp [outW, State.reset] at h
  emit h := by simp [outW, State.reset] at h

theorem emitW_inv (evs : List EventWord) (turns : List Turn) : Inv (emitW evs turns) where
  rxWf := rfl
  txWf := rfl
  rxBounds _ _ := rfl
  txBounds _ h := memRead_past rfl h
  rxOwns := by simp [emitW, State.reset, rxHolds]
  txOwns := by simp [emitW, txHolds]
  body h := by simp [emitW, State.reset] at h
  out h := by simp [emitW, State.reset] at h
  fatal := by simp [emitW, State.reset]
  pending h := by simp [emitW] at h
  emit _ :=
    ⟨show 2 ≤ 2 by decide, show 2 ≤ 257 by decide, show 0 < 2 by decide, written_of_range rfl, rfl⟩

theorem endedW_inv (turns : List Turn) : Inv (endedW turns) where
  rxWf := rfl
  txWf := rfl
  rxBounds _ _ := rfl
  txBounds _ _ := rfl
  rxOwns := by simp [endedW, State.reset, rxHolds]
  txOwns := by simp [endedW, State.reset, txHolds]
  body h := by simp [endedW] at h
  out h := by simp [endedW] at h
  fatal := by simp [endedW]
  pending h := by simp [endedW] at h
  emit h := by simp [endedW] at h

/-! ### Decoding and encoding -/

theorem witness_EventWordsDecodeByStatus :
    decodeEvent (0#2 ++ 0xFF#8) = .byte 0xFF ∧ decodeEvent (1#2 ++ 0x00#8) = .timeout ∧
    decodeEvent (2#2 ++ 0xFF#8) = .error ∧ decodeEvent (3#2 ++ 0xFF#8) = .closed := by decide

/-- A record for each of the four cases, the counts at 0, and one byte too many. -/
theorem witness_CommandDecoderFollowsItsTests :
    (let r : CmdRecord := ⟨0x20000031#32, hdrH.toList⟩
     r.desc.extractLsb' 30 2 = 0#2 ∧ r.desc.extractLsb' 24 5 = 0#5 ∧
       r.data.length = 8 + (r.desc.extractLsb' 16 8).toNat) ∧
    (let r : CmdRecord := ⟨0x40000000#32, []⟩
     r.desc.extractLsb' 30 2 = 1#2 ∧ r.desc.extractLsb' 8 22 = 0#22 ∧
       r.data.length = (r.desc.extractLsb' 0 8).toNat) ∧
    (let r : CmdRecord := ⟨0x80000000#32, []⟩
     ¬r.desc.extractLsb' 30 2 = 0#2 ∧ ¬r.desc.extractLsb' 30 2 = 1#2 ∧ r.desc = 0x80000000#32 ∧ r.data = []) ∧
    (let r : CmdRecord := ⟨0x40000000#32, [0]⟩
     ¬r.desc.extractLsb' 30 2 = 0#2 ∧ ¬r.data.length = (r.desc.extractLsb' 0 8).toNat ∧ ¬r.data = []) := by decide

/-- Both counts at 0 and at the greatest value the encoding admits. -/
theorem witness_DecodeOfEncode :
    (Instr.encode true 0 0xFFFF hdrH []).wellFormed = true ∧
    (Instr.encode false 255 0 hdrH (List.replicate 255 0xAA)).wellFormed = true ∧
    (Instr.raw 0 []).wellFormed = true ∧ (Instr.raw 255 (List.replicate 255 0xAA)).wellFormed = true ∧
    (Instr.illegal ⟨0xC0000000#32, []⟩).wellFormed = true := by decide +kernel

/-! ### The RX operations -/

/-- HUNT, the marker byte and the one below it. -/
theorem witness_ByteInHunt :
    State.reset.rx_state = .hunt ∧ (0xAA#8 : Byte) = 0xAA#8 ∧ ¬(0xA9#8 : Byte) = 0xAA#8 := by decide
theorem witness_SecondMarkerByteConfirms : (rxAt .seen1).rx_state = .seen1 := rfl
theorem witness_FalseStartReleases :
    (rxAt .seen1).rx_state = .seen1 ∧ (rxAt .seen1).owner = .rx ∧ (0xAB#8 : Byte) ≠ 0xAA#8 := by decide
theorem witness_LengthByteAccepted :
    (rxAt .len).rx_state = .len ∧ 11 ≤ (11#8 : Byte).toNat ∧ 11 ≤ (255#8 : Byte).toNat := by decide
/-- RX holding the link, and a link nobody holds. -/
theorem witness_ShortLengthDropped :
    (rxAt .len).rx_state = .len ∧ (rxAt .len).owner = .rx ∧
    ({ State.reset with rx_state := .len } : State).owner = .none ∧
    (10#8 : Byte).toNat < 11 ∧ (0#8 : Byte).toNat < 11 := by decide
/-- The first byte after the length, and the last that is not the last of its frame. -/
theorem witness_BodyByteStored :
    (let s := { rxAt .body with rx_len := 255#8, rx_idx := 1#8 }
     s.rx_state = .body ∧ s.rx_idx.toNat + 1 < s.rx_len.toNat) ∧
    (let s := { rxAt .body with rx_len := 255#8, rx_idx := 253#8 }
     s.rx_state = .body ∧ s.rx_idx.toNat + 1 < s.rx_len.toNat) := by decide
/-- The greatest length too: no byte of it written, so that each read is a free value. -/
theorem witness_LastByteVerified_unwritten :
    let s := { rxAt .body with rx_len := 255#8, rx_idx := 254#8 }
    s.rx_state = .body ∧ s.owner = .rx ∧ 11 ≤ s.rx_len.toNat ∧ s.rx_idx.toNat + 1 = s.rx_len.toNat := by decide
/-- The last byte that makes the sums equal, and the next one up, that does not. -/
theorem witness_LastByteVerified :
    (bodyW [] []).rx_state = .body ∧ (bodyW [] []).owner = .rx ∧ 11 ≤ (bodyW [] []).rx_len.toNat ∧
    (bodyW [] []).rx_idx.toNat + 1 = (bodyW [] []).rx_len.toNat ∧
    Config.checksum16 nineBytes = be16 (hi8 nineSum) (lo8 nineSum) ∧
    Config.checksum16 nineBytes ≠ be16 (hi8 nineSum) (lo8 nineSum + 1#8) := by
  refine ⟨rfl, rfl, by decide, by decide, (be16_hi8_lo8 nineSum).symm, fun h => ?_⟩
  have h1 : lo8 nineSum = lo8 nineSum + 1#8 := by
    have := congrArg lo8 (show nineSum = be16 (hi8 nineSum) (lo8 nineSum + 1#8) from h)
    rwa [lo8_be16] at this
  revert h1
  generalize lo8 nineSum = b
  revert b
  decide
theorem witness_TimeoutWhileScanning :
    State.reset.rx_state = .hunt ∧ (rxAt .seen1).rx_state = .seen1 := by decide
theorem witness_TimeoutInFrameDrops :
    (rxAt .len).rx_state = .len ∧ (rxAt .len).owner = .rx ∧ (rxAt .body).rx_state = .body ∧
    ({ State.reset with rx_state := .body } : State).owner = .none := by decide
theorem witness_ErrorEndsInbound :
    State.reset.rx_state = .hunt ∧ State.reset.owner = .none ∧ (rxAt .seen1).rx_state = .seen1 ∧
    (rxAt .len).rx_state = .len ∧ (rxAt .body).rx_state = .body ∧ (rxAt .body).owner = .rx := by decide
/-- HUNT while TX holds the link, and BODY while RX does. -/
theorem witness_ClosedEndsInbound :
    (emitAt 0).rx_state = .hunt ∧ (emitAt 0).owner = .tx ∧ (rxAt .seen1).rx_state = .seen1 ∧
    (rxAt .len).rx_state = .len ∧ (rxAt .body).rx_state = .body ∧ (rxAt .body).owner = .rx := by decide

/-! ### The TX commands -/

theorem witness_EncodeLatched : State.reset.tx_state = .idle := rfl
theorem witness_RawLatched : State.reset.tx_state = .idle := rfl
theorem witness_CloseAccepted : State.reset.tx_state = .idle := rfl
theorem witness_IllegalDiscarded : State.reset.tx_state = .idle := rfl
theorem witness_OfferedRecordIsLatched :
    let s := bootWith [] [⟨0x40000001#32, [0x05]⟩, closeRecord] [.tx none]
    s.rst = false ∧ s.sched = .tx none :: [] ∧ s.tx_state = .idle ∧ s.cmd = ⟨0x40000001#32, [0x05]⟩ :: [closeRecord] ∧
      isFrameCommand (decodeCommand ⟨0x40000001#32, [0x05]⟩) = true := by decide
/-- RX in each state in which it waits, TX in each state in which it waits. -/
theorem witness_InputsWaitAtTheirPorts :
    (let s := { State.reset with rx_state := .acq, sched := [.rx true] }
     s.rst = false ∧ s.rx_state = .acq ∧ s.sched = .rx true :: []) ∧
    (let s := { State.reset with rx_state := .out, sched := [.rx false] }
     s.rst = false ∧ s.rx_state = .out ∧ s.sched = .rx false :: []) ∧
    (let s := { State.reset with rx_state := .fatal, sched := [.rx false] }
     s.rst = false ∧ s.rx_state = .fatal ∧ s.sched = .rx false :: []) ∧
    (let s := { emitAt 0 with sched := [.tx none] }
     s.rst = false ∧ s.tx_state = .emit ∧ s.tx_state ≠ .idle ∧ s.sched = .tx none :: []) ∧
    (let s := { State.reset with tx_state := .acq, sched := [.tx (some .ok)] }
     s.rst = false ∧ s.tx_state = .acq ∧ s.sched = .tx (some .ok) :: []) ∧
    (let s := { State.reset with tx_state := .closed, sched := [.tx (some .ok)] }
     s.rst = false ∧ s.tx_state = .closed ∧ s.sched = .tx (some .ok) :: []) := by decide

/-! ### The arbiter -/

/-- Each request alone with the other agent chosen, and both requests with either chosen. -/
theorem witness_GrantsTakeTheLink :
    (let s := { State.reset with rx_state := .acq, sched := [.arb .tx] }
     s.rst = false ∧ s.sched = .arb .tx :: [] ∧ s.owner = .none ∧ s.rx_state = .acq ∧ s.tx_state ≠ .acq) ∧
    (let s := { State.reset with tx_state := .acq, sched := [.arb .rx] }
     s.rst = false ∧ s.sched = .arb .rx :: [] ∧ s.owner = .none ∧ s.tx_state = .acq ∧ s.rx_state ≠ .acq) ∧
    (let s := { State.reset with rx_state := .acq, tx_state := .acq, sched := [.arb .rx] }
     s.rst = false ∧ s.sched = .arb .rx :: [] ∧ s.owner = .none ∧ s.rx_state = .acq ∧ s.tx_state = .acq) ∧
    (let s := { State.reset with rx_state := .acq, tx_state := .acq, sched := [.arb .tx] }
     s.rst = false ∧ s.sched = .arb .tx :: [] ∧ s.owner = .none ∧ s.rx_state = .acq ∧ s.tx_state = .acq) := by decide
theorem witness_BothGrantsAdmitted :
    let s := { State.reset with rx_state := .acq, tx_state := .acq }
    s.rst = false ∧ s.owner = .none ∧ s.rx_state = .acq ∧ s.tx_state = .acq := by decide
theorem witness_NoGrantOtherwise :
    (let s := { emitAt 0 with rx_state := .acq, sched := [.arb .rx] }
     s.rst = false ∧ s.sched = .arb .rx :: [] ∧ s.owner ≠ .none) ∧
    (let s := { State.reset with sched := [.arb .rx] }
     s.rst = false ∧ s.sched = .arb .rx :: [] ∧ s.rx_state ≠ .acq ∧ s.tx_state ≠ .acq) := by decide

/-! ### Assembly and emission -/

/-- No payload, and the greatest one. -/
theorem witness_EncodeAssembled :
    (let s := encW ⟨0x00000031#32, hdrH.toList⟩
     s.rst = false ∧ s.sched = .tx none :: [] ∧ s.tx_state = .enc ∧
       decodeCommand s.tx_cmd = .encode false 0 0x31 hdrH [] ∧ (0#8 : Byte).toNat ≤ 244) ∧
    (let s := encW ⟨0x00F40031#32, hdrH.toList ++ List.replicate 244 0xAA⟩
     s.rst = false ∧ s.sched = .tx none :: [] ∧ s.tx_state = .enc ∧
       decodeCommand s.tx_cmd = .encode false 244 0x31 hdrH (List.replicate 244 0xAA) ∧
       (244#8 : Byte).toNat ≤ 244) := by decide +kernel
/-- The least payload that is too long, the failed serializer, and both. -/
theorem witness_EncodeFailures :
    (let s := encW ⟨0x00F50031#32, hdrH.toList ++ List.replicate 245 0xAA⟩
     s.rst = false ∧ s.sched = .tx none :: [] ∧ s.tx_state = .enc ∧ s.owner = .tx ∧
       decodeCommand s.tx_cmd = .encode false 245 0x31 hdrH (List.replicate 245 0xAA) ∧ 244 < (245#8 : Byte).toNat) ∧
    (let s := encW ⟨0x20000031#32, hdrH.toList⟩
     s.rst = false ∧ s.sched = .tx none :: [] ∧ s.tx_state = .enc ∧ s.owner = .tx ∧
       decodeCommand s.tx_cmd = .encode true 0 0x31 hdrH []) ∧
    (let s := encW ⟨0x20F50031#32, hdrH.toList ++ List.replicate 245 0xAA⟩
     s.owner = .tx ∧ decodeCommand s.tx_cmd = .encode true 245 0x31 hdrH (List.replicate 245 0xAA)) := by
  decide +kernel
/-- No bytes, and the most. -/
theorem witness_RawAssembled :
    (let s := encW ⟨0x40000000#32, []⟩
     s.rst = false ∧ s.sched = .tx none :: [] ∧ s.tx_state = .enc ∧ decodeCommand s.tx_cmd = .raw 0 []) ∧
    (let s := encW ⟨0x400000FF#32, List.replicate 255 0xAA⟩
     s.rst = false ∧ s.sched = .tx none :: [] ∧ s.tx_state = .enc ∧
       decodeCommand s.tx_cmd = .raw 255 (List.replicate 255 0xAA)) := by decide +kernel
/-- A byte that is not the last, the last, and one answered ERROR. -/
theorem witness_EmitOneByte :
    (let s := { emitAt 0 with sched := [.tx (some .ok)] }
     s.rst = false ∧ s.sched = .tx (some .ok) :: [] ∧ s.tx_state = .emit ∧ s.owner = .tx ∧
       txRead s s.tx_idx.toNat = some 0xAA#8 ∧ s.tx_idx.toNat + 1 ≠ s.tx_cnt.toNat) ∧
    (let s := { emitAt 1 with sched := [.tx (some .ok)] }
     s.rst = false ∧ s.sched = .tx (some .ok) :: [] ∧ s.tx_state = .emit ∧ s.owner = .tx ∧
       txRead s s.tx_idx.toNat = some 0x07#8 ∧ s.tx_idx.toNat + 1 = s.tx_cnt.toNat) ∧
    (let s := { emitAt 1 with sched := [.tx (some .error)] }
     s.rst = false ∧ s.sched = .tx (some .error) :: [] ∧ s.tx_state = .emit ∧ s.owner = .tx ∧
       txRead s s.tx_idx.toNat = some 0x07#8) := by decide
/-- No payload, and the greatest one. -/
theorem witness_EncodeEmittedWhole :
    (let r : CmdRecord := ⟨0x00000031#32, hdrH.toList⟩
     let s := bootWith [] [r] ([.tx none, .arb .tx, .tx none] ++ emitTurns ((0#8 : Byte).toNat + 13) ++ [])
     s.rst = false ∧ s.tx_state = .idle ∧ s.owner = .none ∧ s.cmd = r :: [] ∧
       decodeCommand r = .encode false 0 0x31 hdrH [] ∧ (0#8 : Byte).toNat ≤ 244 ∧
       s.sched = [.tx none, .arb .tx, .tx none] ++ emitTurns ((0#8 : Byte).toNat + 13) ++ []) ∧
    (let r : CmdRecord := ⟨0x00F40031#32, hdrH.toList ++ List.replicate 244 0xAA⟩
     let s := bootWith [] [r] ([.tx none, .arb .tx, .tx none] ++ emitTurns ((244#8 : Byte).toNat + 13) ++ [.rx true])
     s.rst = false ∧ s.tx_state = .idle ∧ s.owner = .none ∧ s.cmd = r :: [] ∧
       decodeCommand r = .encode false 244 0x31 hdrH (List.replicate 244 0xAA) ∧ (244#8 : Byte).toNat ≤ 244 ∧
       s.sched = [.tx none, .arb .tx, .tx none] ++ emitTurns ((244#8 : Byte).toNat + 13) ++ [.rx true]) := by
  decide +kernel
/-- No bytes, and the most. -/
theorem witness_RawEmittedWhole :
    (let r : CmdRecord := ⟨0x40000000#32, []⟩
     let s := bootWith [] [r] ([.tx none, .arb .tx, .tx none] ++ emitTurns ((0#8 : Byte).toNat + 2) ++ [])
     s.rst = false ∧ s.tx_state = .idle ∧ s.owner = .none ∧ s.cmd = r :: [] ∧ decodeCommand r = .raw 0 [] ∧
       s.sched = [.tx none, .arb .tx, .tx none] ++ emitTurns ((0#8 : Byte).toNat + 2) ++ []) ∧
    (let r : CmdRecord := ⟨0x400000FF#32, List.replicate 255 0xAA⟩
     let s := bootWith [] [r] ([.tx none, .arb .tx, .tx none] ++ emitTurns ((255#8 : Byte).toNat + 2) ++ [])
     s.rst = false ∧ s.tx_state = .idle ∧ s.owner = .none ∧ s.cmd = r :: [] ∧
       decodeCommand r = .raw 255 (List.replicate 255 0xAA) ∧
       s.sched = [.tx none, .arb .tx, .tx none] ++ emitTurns ((255#8 : Byte).toNat + 2) ++ []) := by
  decide +kernel

/-! ### Reception and delivery -/

/-- A state in OUT, and one that is not. -/
theorem witness_FrameRecordFields :
    (outW []).rx_state = .out ∧ 11 ≤ (outW []).rx_len.toNat ∧ (bodyW [] []).rx_state ≠ .out :=
  ⟨rfl, by decide, by decide⟩
theorem witness_DeliverTransfers :
    (outW [.rx true]).rst = false ∧ (outW [.rx true]).rx_state = .out ∧ 11 ≤ (outW [.rx true]).rx_len.toNat ∧
    (outW [.rx true]).sched = .rx true :: [] := ⟨rfl, rfl, by decide, rfl⟩
theorem witness_GeneratedChecksumVerifies :
    (11#8 : Byte).toNat = nineBytes.length + 2 ∧
    ∀ i, i < (11#8 : Byte).toNat → rxRead (outW []) i = (withChecksum nineBytes)[i]? := by
  refine ⟨rfl, ?_⟩
  have h : ∀ i : Fin 11, rxRead (outW []) i = (withChecksum nineBytes)[i.val]? := by
    intro i
    fin_cases i <;> rfl
  exact fun i hi => h ⟨i, hi⟩

/-- An ENCODE's image of the least length. -/
theorem witness_ValidFrameReachesOut :
    let rest : List Byte := [0, 0, 0, 0, 0, 0, 0, 0]
    let s := bootWith (bytesIn (wireImage (withChecksum (11#8 :: rest))) ++ [0x100#10]) []
      (frameTurns ((11#8 : Byte).toNat + 2) ++ [])
    s.rst = false ∧ s.rx_state = .hunt ∧ s.owner = .none ∧ 11 ≤ (11#8 : Byte).toNat ∧
      (11#8 : Byte).toNat = (11#8 :: rest).length + 2 ∧
      s.rx_ev = bytesIn (wireImage (withChecksum (11#8 :: rest))) ++ [0x100#10] ∧
      s.sched = frameTurns ((11#8 : Byte).toNat + 2) ++ [] := ⟨rfl, rfl, rfl, by decide, rfl, rfl, rfl⟩
/-- The greatest length. -/
theorem witness_ValidFrameReachesOut_longest :
    let rest : List Byte := List.replicate 252 0xAA
    let s := bootWith (bytesIn (wireImage (withChecksum (255#8 :: rest))) ++ []) []
      (frameTurns ((255#8 : Byte).toNat + 2) ++ [])
    s.rst = false ∧ s.rx_state = .hunt ∧ s.owner = .none ∧ 11 ≤ (255#8 : Byte).toNat ∧
      (255#8 : Byte).toNat = (255#8 :: rest).length + 2 ∧
      s.rx_ev = bytesIn (wireImage (withChecksum (255#8 :: rest))) ++ [] ∧
      s.sched = frameTurns ((255#8 : Byte).toNat + 2) ++ [] := ⟨rfl, rfl, rfl, by decide, by decide +kernel, rfl, rfl⟩
/-- The right sum with its low byte one up. -/
theorem witness_CorruptFrameDropped :
    let rest : List Byte := [0, 0, 0, 0, 0, 0, 0, 0]
    let hi := hi8 nineSum
    let lo := lo8 nineSum + 1#8
    let s := bootWith (bytesIn (wireImage ((11#8 :: rest) ++ [hi, lo])) ++ []) []
      (frameTurns ((11#8 : Byte).toNat + 2) ++ [])
    s.rst = false ∧ s.rx_state = .hunt ∧ s.owner = .none ∧ 11 ≤ (11#8 : Byte).toNat ∧
      (11#8 : Byte).toNat = (11#8 :: rest).length + 2 ∧ be16 hi lo ≠ Config.checksum16 (11#8 :: rest) ∧
      s.rx_ev = bytesIn (wireImage ((11#8 :: rest) ++ [hi, lo])) ++ [] ∧
      s.sched = frameTurns ((11#8 : Byte).toNat + 2) ++ [] :=
  ⟨rfl, rfl, rfl, by decide, rfl, fun h => witness_LastByteVerified.2.2.2.2.2 h.symm, rfl, rfl⟩
/-- The emitting block, and a receiving one for whatever was emitted. -/
theorem witness_EncodedFrameIsReceived :
    (let r : CmdRecord := ⟨0x00F40031#32, hdrH.toList ++ List.replicate 244 0xAA⟩
     let a := bootWith [] [r] ([.tx none, .arb .tx, .tx none] ++ emitTurns ((244#8 : Byte).toNat + 13) ++ [])
     a.rst = false ∧ a.tx_state = .idle ∧ a.owner = .none ∧ a.cmd = r :: [] ∧
       decodeCommand r = .encode false 244 0x31 hdrH (List.replicate 244 0xAA) ∧ (244#8 : Byte).toNat ≤ 244 ∧
       a.sched = [.tx none, .arb .tx, .tx none] ++ emitTurns ((244#8 : Byte).toNat + 13) ++ []) ∧
    ∀ emitted : List Byte,
      let s := bootWith (bytesIn emitted ++ []) [] (frameTurns ((244#8 : Byte).toNat + 13) ++ [])
      s.rst = false ∧ s.rx_state = .hunt ∧ s.owner = .none ∧ s.rx_ev = bytesIn emitted ++ [] ∧
        s.sched = frameTurns ((244#8 : Byte).toNat + 13) ++ [] :=
  ⟨by decide +kernel, fun _ => ⟨rfl, rfl, rfl, rfl, rfl⟩⟩
/-- A run that begins an attempt and gives it up: 0xAA, a timeout, 0x05, 0xAA. -/
theorem witness_NoMarkerPairNoFrame :
    let evs : List EventWord := [0x0AA#10, 0x100#10, 0x005#10, 0x0AA#10]
    noMarkerPair false evs = true ∧
      (after (runs 5 (bootWith evs [] [.rx false, .arb .rx, .rx false, .rx false, .rx false]))).map (·.rx_state) =
        some .acq := by decide

/-! ### Reset and HOST -/

theorem witness_ResetTaken :
    ({ emitAt 1 with sched := [.host .reset] } : State).sched = .host .reset :: [] := rfl
theorem witness_ResetTakesPrecedence :
    let s := { emitAt 1 with sched := [.tx (some .ok)], rst := true }
    s.rst = true ∧ s.sched = .tx (some .ok) :: [] ∧ ∀ op, (Turn.tx (some .ok)) ≠ .host op :=
  ⟨rfl, rfl, fun _ h => nomatch h⟩
/-- With `rst` high and with `rst` low. -/
theorem witness_StartIsSingleUse :
    (let s := { State.reset with sched := [.host .start], rst := true }
     s.sched = .host .start :: [] ∧ s.rst = true) ∧
    (let s := { State.reset with sched := [.host .start] }
     s.sched = .host .start :: [] ∧ s.rst = false) := by decide
theorem witness_HostOffersAtThePorts :
    (bootWith [] [] [.host (.send closeRecord)]).sched = .host (.send closeRecord) :: [] ∧
    (bootWith [] [] [.host .closeQueue]).sched = .host .closeQueue :: [] ∧
    (bootWith [] [] [.host .closeStream]).sched = .host .closeStream :: [] := by decide
theorem witness_TerminalStatesStay :
    (endedW [.rx true]).rst = false ∧ (endedW [.rx true]).sched = .rx true :: [] ∧ Turn.rx true ≠ .host .reset ∧
    step (endedW [.rx true]) = .next (endedW []) ∧ (endedW [.rx true]).rx_state = .fatal ∧
    (endedW [.rx true]).tx_state = .closed := ⟨rfl, rfl, by decide, rfl, rfl, rfl⟩
/-- Both paths ended already, and TX in the middle of a frame with the duties met. -/
theorem witness_StopReachesStopped :
    (let s := endedW (fairRounds .rx .error 300)
     Inv s ∧ s.rst = false ∧ s.rx_state = .fatal ∧ s.tx_state = .closed ∧ s.sched = fairRounds .rx .error 300) ∧
    (let s := { emitW [0x3FF#10] (fairRounds .rx .ok 300) with cmd := [closeRecord] }
     Inv s ∧ s.rst = false ∧ (∃ w ws, s.rx_ev = w :: ws ∧ decodeEvent w = .closed) ∧ s.cmd = [closeRecord] ∧
       s.sched = fairRounds .rx .ok 300) := by
  refine ⟨⟨endedW_inv _, rfl, rfl, rfl, rfl⟩, ?_, rfl, ⟨_, _, rfl, by decide⟩, rfl, rfl⟩
  have h := emitW_inv [0x3FF#10] (fairRounds .rx .ok 300)
  exact ⟨h.1, h.2, h.3, h.4, h.5, h.6, h.7, h.8, h.9, h.10, h.11⟩

/-! ### The machine as a whole -/

theorem witness_StepRunsOfferedEvent :
    let s := bodyW [0x005#10] [.rx false]
    s.rst = false ∧ s.sched = .rx false :: [] ∧ rxEvReady s = true ∧ s.rx_ev = 0x005#10 :: [] := ⟨rfl, rfl, rfl, rfl⟩
theorem witness_StepRunsOfferedRecord :
    let s := bootWith [] [⟨0xC0000000#32, []⟩] [.tx none]
    s.rst = false ∧ s.sched = .tx none :: [] ∧ cmdReady s = true ∧ s.cmd = ⟨0xC0000000#32, []⟩ :: [] := by decide
/-- The last byte of an image, answered OK. -/
theorem witness_StepKeepsInv :
    Inv (emitW [] [.tx (some .ok)]) ∧
    step (emitW [] [.tx (some .ok)]) = .next { emitW [] [] with wire_out := [(0xAA#8, .ok)], tx_idx := 1#9 } :=
  ⟨emitW_inv _ _, rfl⟩
/-- A state whose step reads the buffer and answers a next state, one whose step delivers the frame that passed the verifier,
and one whose step is the refused second start. -/
theorem witness_SafeStatesNeverFault :
    (Inv (emitW [] [.tx (some .ok)]) ∧ (emitW [] [.tx (some .ok)]).rst = false ∧
      (emitW [] [.tx (some .ok)]).sched = .tx (some .ok) :: [] ∧ Turn.tx (some .ok) ≠ .host .reset ∧
      ∃ t, step (emitW [] [.tx (some .ok)]) = .next t) ∧
    (Inv (outW [.rx true]) ∧ (outW [.rx true]).rst = false ∧ (outW [.rx true]).sched = .rx true :: [] ∧
      ∃ t, step (outW [.rx true]) = .next t) ∧
    Inv (emitW [] [.host .start]) ∧ step (emitW [] [.host .start]) = .refused .secondStart :=
  ⟨⟨emitW_inv _ _, rfl, rfl, by decide, _, rfl⟩, ⟨outW_inv _, rfl, rfl, _, rfl⟩, emitW_inv _ _, rfl⟩
/-- A run in which RX comes to hold the link, and one in which TX does. -/
theorem witness_OwnerNamesTheHolder :
    (after (runs 2 (bootWith [0x0AA#10] [] [.rx false, .arb .rx]))).map (fun t => (t.owner, t.rx_state)) =
      some (.rx, .seen1) ∧
    (after (runs 2 (bootWith [] [⟨0x40000000#32, []⟩] [.tx none, .arb .tx]))).map (fun t => (t.owner, t.tx_state)) =
      some (.tx, .enc) := by decide
/-- RX takes a byte in BODY while it owns the link, and one in HUNT while TX owns it. -/
theorem witness_FramesAreAtomicOnTheLink :
    (Inv (bodyW [0x100#10] [.rx false]) ∧ (bodyW [0x100#10] [.rx false]).owner = .rx ∧
      ∃ t, step (bodyW [0x100#10] [.rx false]) = .next t) ∧
    (Inv (emitW [0x005#10] [.rx false]) ∧ (emitW [0x005#10] [.rx false]).owner = .tx ∧
      ∃ t, step (emitW [0x005#10] [.rx false]) = .next t ∧ t.wire_in ≠ (emitW [0x005#10] [.rx false]).wire_in) :=
  ⟨⟨bodyW_inv _ _, rfl, _, rfl⟩, emitW_inv _ _, rfl, _, rfl, by decide⟩
theorem witness_OnlyReadFailuresAreFatal :
    let s := bootWith [0x2AA#10] [] [.rx false]
    s.rx_state ≠ .fatal ∧ (after (step s)).map (·.rx_state) = some .fatal := by decide
/-- A turn of RX and a turn of TX. -/
theorem witness_RxAndTxShareOnlyTheOwner :
    (let s := emitW [0x005#10] [.rx false]
     s.rst = false ∧ s.sched = .rx false :: [] ∧ ∃ t, step s = .next t) ∧
    (let s := emitW [0x005#10] [.tx (some .error)]
     s.rst = false ∧ s.sched = .tx (some .error) :: [] ∧ ∃ t, step s = .next t) :=
  ⟨⟨rfl, rfl, _, rfl⟩, rfl, rfl, _, rfl⟩
/-- A reset taken in the middle of a frame. -/
theorem witness_HistoriesOnlyGrow :
    ∃ t, step { emitW [] [.host .reset] with wire_out := [(0xAA#8, .ok)] } = .next t := ⟨_, rfl⟩
theorem witness_HandshakeOutputs : (emitW [] []).tx_state = .emit := rfl
/-- An array, and the same one. -/
theorem witness_EqualContentsEqualArrays :
    let m : Memory := [(0, 0xAA#8), (256, 0x07#8)]
    Memory.wf m = true ∧ Memory.wf (memPut [(256, 0x07#8)] 0 0xAA#8) = true ∧
      ∀ a, memRead m a = memRead (memPut [(256, 0x07#8)] 0 0xAA#8) a := ⟨by decide, by decide, fun _ => rfl⟩

end Sys2Proof.Machine.Tests
end

section
/-! The invariant in three parts, each a predicate on the fields it speaks of: what the receiver holds, what the
transmitter holds, and whom the owner names. A step that leaves the fields of a part as they are keeps it for free. -/

namespace Sys2Proof.Machine

/-! ### The bytes of an array -/

/-- A write inside the array leaves nothing beyond its end. -/
theorem memRead_memPut_beyond {size a : Nat} {m : Memory} (v : Byte) (h : ∀ b, size ≤ b → memRead m b = none)
    (ha : a < size) : ∀ b, size ≤ b → memRead (memPut m a v) b = none := fun b hb => by
  rw [memRead_memPut_other m v (by omega)]
  exact h b hb

/-- The byte after the written ones is stored: one more byte is written. -/
theorem Written.memPut {m : Memory} {n : Nat} (v : Byte) (h : Written m n) :
    Written (Machine.memPut m n v) (n + 1) := fun a ha => by
  rw [memRead_memPut]
  split
  · rfl
  · exact h a (by omega)

theorem Written.mono {m : Memory} {n k : Nat} (h : Written m n) (hk : k ≤ n) : Written m k :=
  fun a ha => h a (by omega)

/-- A byte that is written does not show the free values. -/
theorem bufRead_free_irrelevant {size : Nat} {m : Memory} {a : Nat} (free free' : Nat → Byte)
    (h : (memRead m a).isSome = true) : bufRead size free m a = bufRead size free' m a := by
  obtain ⟨v, hv⟩ := Option.isSome_iff_exists.mp h
  simp [bufRead, hv]

/-! ### RX's part -/

/-- What the invariant says of RX's registers and RXBUF, `n` being the count of resets. -/
structure RxSafe (st : RxState) (len idx : Byte) (buf : Memory) (cause : RxFatal) (n : Nat) : Prop where
  wf : Memory.wf buf = true
  bounds : ∀ a, Config.rxBufSize ≤ a → memRead buf a = none
  body : st = .body →
    Config.minLen ≤ len.toNat ∧ 1 ≤ idx.toNat ∧ idx.toNat < len.toNat ∧ Written buf idx.toNat ∧
      memRead buf 0 = some len
  out : st = .out →
    Config.minLen ≤ len.toNat ∧ Written buf len.toNat ∧ memRead buf 0 = some len ∧
      ckOk (bufRead Config.rxBufSize (Config.resetRxByte n) buf) len = some true
  fatal : cause = .none ↔ st ≠ .fatal

namespace RxSafe

variable {st st' : RxState} {len idx : Byte} {buf : Memory} {cause cause' : RxFatal} {n : Nat}

/-- After a reset. -/
theorem initial (len idx : Byte) (n : Nat) : RxSafe .hunt len idx [] .none n where
  wf := rfl
  bounds _ _ := rfl
  body := nofun
  out := nofun
  fatal := by simp

/-- A state in which no rule reads RXBUF asks nothing of the frame. -/
theorem of_not_reading (hwf : Memory.wf buf = true) (hb : ∀ a, Config.rxBufSize ≤ a → memRead buf a = none)
    (hbody : st ≠ .body) (hout : st ≠ .out) (hf : cause = .none ↔ st ≠ .fatal) : RxSafe st len idx buf cause n where
  wf := hwf
  bounds := hb
  body h := absurd h hbody
  out h := absurd h hout
  fatal := hf

/-- RX moves between states other than FATAL, to one that reads no frame. -/
theorem move (h : RxSafe st len idx buf cause n) (hst : st ≠ .fatal)
    (hst' : st' = .hunt ∨ st' = .acq ∨ st' = .seen1 ∨ st' = .len) : RxSafe st' len idx buf cause n := by
  have hcause : cause = .none := h.fatal.mpr hst
  refine of_not_reading h.wf h.bounds ?_ ?_ ?_ <;> rcases hst' with rfl | rfl | rfl | rfl <;> simp [hcause]

/-- A fatal termination records its cause (R125). -/
theorem terminate (h : RxSafe st len idx buf cause n) (c : FatalCause) :
    RxSafe .fatal len idx buf (fatalValue c) n :=
  of_not_reading h.wf h.bounds nofun nofun (by cases c <;> simp [fatalValue])

/-- The length byte is stored (R100). -/
theorem storeLength (h : RxSafe st len idx buf cause n) (hst : st = .len) {d : Byte}
    (hd : Config.minLen ≤ d.toNat) : RxSafe .body d 1#8 (memPut buf 0 d) cause n where
  wf := Memory.wf_memPut 0 d h.wf
  bounds := memRead_memPut_beyond d h.bounds (by decide)
  body _ := by
    have h0 : Written buf 0 := fun _ ha => absurd ha (Nat.not_lt_zero _)
    refine ⟨hd, Nat.le_refl 1, ?_, h0.memPut d, memRead_memPut_same buf 0 d⟩
    calc 1 < Config.minLen := by decide
      _ ≤ d.toNat := hd
  out := nofun
  fatal := by simp [h.fatal, hst]

/-- A byte of the frame that is not its last is stored (R102). -/
theorem storeMiddle (h : RxSafe st len idx buf cause n) (hst : st = .body) (d : Byte)
    (hi : idx.toNat + 1 < len.toNat) : RxSafe st len (idx + 1#8) (memPut buf idx.toNat d) cause n where
  wf := Memory.wf_memPut _ d h.wf
  bounds := memRead_memPut_beyond d h.bounds (show idx.toNat < 255 by have := len.isLt; omega)
  body _ := by
    obtain ⟨hlen, hpos, -, hw, h0⟩ := h.body hst
    have hnext : (idx + 1#8).toNat = idx.toNat + 1 := by have := len.isLt; bv_omega
    rw [hnext]
    exact ⟨hlen, by omega, hi, hw.memPut d, by rw [memRead_memPut_other buf d (by omega), h0]⟩
  out h' := by simp [hst] at h'
  fatal := h.fatal

/-- The last byte of the frame completes it: what the reader knows before it compares the sums (R103). -/
theorem storeLast (h : RxSafe st len idx buf cause n) (hst : st = .body) (d : Byte)
    (hi : len.toNat ≤ idx.toNat + 1) :
    Memory.wf (memPut buf idx.toNat d) = true ∧
      (∀ a, Config.rxBufSize ≤ a → memRead (memPut buf idx.toNat d) a = none) ∧
      Written (memPut buf idx.toNat d) len.toNat ∧ memRead (memPut buf idx.toNat d) 0 = some len := by
  obtain ⟨-, hpos, hlt, hw, h0⟩ := h.body hst
  have := len.isLt
  refine ⟨Memory.wf_memPut _ d h.wf, memRead_memPut_beyond d h.bounds (show idx.toNat < 255 by omega), ?_, ?_⟩
  · exact (hw.memPut d).mono hi
  · rw [memRead_memPut_other buf d (by omega), h0]

/-- The frame passed the verifier and is offered (R103). -/
theorem offer (h : RxSafe st len idx buf cause n) (hst : st = .body) {d : Byte} (hi : len.toNat ≤ idx.toNat + 1)
    (hck : ckOk (bufRead Config.rxBufSize (Config.resetRxByte n) (memPut buf idx.toNat d)) len = some true) :
    RxSafe .out len len (memPut buf idx.toNat d) cause n := by
  obtain ⟨hlen, -⟩ := h.body hst
  obtain ⟨hwf, hb, hw, h0⟩ := h.storeLast hst d hi
  exact ⟨hwf, hb, nofun, fun _ => ⟨hlen, hw, h0, hck⟩, by simp [h.fatal, hst]⟩

/-- The frame failed the verifier and is dropped (R103). -/
theorem dropLast (h : RxSafe st len idx buf cause n) (hst : st = .body) (d : Byte)
    (hi : len.toNat ≤ idx.toNat + 1) : RxSafe .hunt len len (memPut buf idx.toNat d) cause n := by
  obtain ⟨hwf, hb, -⟩ := h.storeLast hst d hi
  exact of_not_reading hwf hb nofun nofun (by simp [h.fatal, hst])

end RxSafe

/-! ### TX's part -/

/-- What the invariant says of TX's registers and TXBUF. -/
structure TxSafe (st : TxState) (r : CmdRecord) (buf : Memory) (cnt idx : BitVec 9) : Prop where
  wf : Memory.wf buf = true
  bounds : ∀ a, Config.txBufSize ≤ a → memRead buf a = none
  pending : st = .acq ∨ st = .enc → isFrameCommand (decodeCommand r) = true
  emit : st = .emit →
    2 ≤ cnt.toNat ∧ cnt.toNat ≤ Config.txBufSize ∧ idx.toNat < cnt.toNat ∧ Written buf cnt.toNat ∧
      readRange (memRead buf) 0 2 = some markerBytes

namespace TxSafe

variable {st : TxState} {r : CmdRecord} {buf m : Memory} {cnt idx : BitVec 9}

/-- After a reset. -/
theorem initial (r : CmdRecord) (cnt idx : BitVec 9) : TxSafe .idle r [] cnt idx where
  wf := rfl
  bounds _ _ := rfl
  pending h := by simp at h
  emit := nofun

/-- The command is done with, or TX exits. -/
theorem rest (h : TxSafe st r buf cnt idx) {st' : TxState} (hst : st' = .idle ∨ st' = .closed) :
    TxSafe st' r buf cnt idx := by
  refine ⟨h.wf, h.bounds, ?_, ?_⟩ <;> rcases hst with rfl | rfl <;> simp

/-- A frame command is latched (R110, R111). -/
theorem latch (h : TxSafe st r buf cnt idx) {r' : CmdRecord} (hr : isFrameCommand (decodeCommand r') = true) :
    TxSafe .acq r' buf cnt idx :=
  ⟨h.wf, h.bounds, fun _ => hr, nofun⟩

/-- The grant keeps the latched command (R54). -/
theorem grant (h : TxSafe st r buf cnt idx) (hst : st = .acq) : TxSafe .enc r buf cnt idx :=
  ⟨h.wf, h.bounds, fun _ => h.pending (.inl hst), nofun⟩

/-- An image that fits is stored whole, the marker first (R115, R119). -/
theorem load (h : TxSafe st r buf cnt idx) {frame : List Byte} (hlen : frame.length ≤ Config.maxLen)
    (hm : memWriteList Config.txBufSize buf 0 (wireImage frame) = some m) :
    TxSafe .emit r m (BitVec.ofNat 9 (wireImage frame).length) 0#9 := by
  have himg : (wireImage frame).length = frame.length + 2 := by simp [wireImage, markerBytes]
  have hle : frame.length ≤ 255 := hlen
  have hcnt : (BitVec.ofNat 9 (wireImage frame).length).toNat = (wireImage frame).length := by
    rw [BitVec.toNat_ofNat]; omega
  have hread : ∀ a, a < (wireImage frame).length → memRead m a = (wireImage frame)[a]? := fun a ha => by
    rw [memRead_memWriteList hm, if_pos (by omega), Nat.sub_zero]
  refine ⟨Memory.wf_memWriteList hm h.wf, fun a ha => ?_, by simp, fun _ => ?_⟩
  · have : 257 ≤ a := ha
    rw [memRead_memWriteList hm, if_neg (by omega)]
    exact h.bounds a ha
  · rw [hcnt, himg]
    refine ⟨by omega, show frame.length + 2 ≤ 257 by omega, Nat.succ_pos _, fun a ha => ?_, ?_⟩
    · rw [hread a (by omega), List.getElem?_eq_getElem (by omega), Option.isSome_some]
    · refine readRange_eq_some.mpr ⟨rfl, fun i hi => ?_⟩
      rw [Nat.zero_add, hread i (by omega), wireImage, List.getElem?_append_left hi]

/-- A byte that is not the last of the image is emitted (R120). -/
theorem advance (h : TxSafe st r buf cnt idx) (hst : st = .emit) (hne : idx.toNat + 1 ≠ cnt.toNat) :
    TxSafe st r buf cnt (idx + 1#9) := by
  obtain ⟨hpos, hle, hlt, hw, hmark⟩ := h.emit hst
  have hnext : (idx + 1#9).toNat = idx.toNat + 1 := by
    have : cnt.toNat ≤ 257 := hle
    bv_omega
  exact ⟨h.wf, h.bounds, h.pending, fun _ => ⟨hpos, hle, by omega, hw, hmark⟩⟩

end TxSafe

/-! ### The link -/

/-- R31: the owner is exactly the agent whose state holds the link. -/
def LinkSafe (o : Owner) (rx : RxState) (tx : TxState) : Prop :=
  (o = .rx ↔ rxHolds rx = true) ∧ (o = .tx ↔ txHolds tx = true)

namespace LinkSafe

variable {o : Owner} {rx rx' : RxState} {tx tx' : TxState}

/-- RX moves and neither takes nor gives up the link. -/
theorem moveRx (h : LinkSafe o rx tx) (hrx : rxHolds rx' = rxHolds rx) : LinkSafe o rx' tx := by
  simpa only [LinkSafe, hrx] using h

/-- TX moves and neither takes nor gives up the link. -/
theorem moveTx (h : LinkSafe o rx tx) (htx : txHolds tx' = txHolds tx) : LinkSafe o rx tx' := by
  simpa only [LinkSafe, htx] using h

/-- RX gives up the link if it has it, as its exceptions do (R124, R125). -/
theorem dropRx (h : LinkSafe o rx tx) (hrx : rxHolds rx' = false) :
    LinkSafe (if o = .rx then .none else o) rx' tx := by
  cases o <;> simp_all [LinkSafe]

theorem releaseRx (h : LinkSafe o rx tx) (ho : o = .rx) (hrx : rxHolds rx' = false) : LinkSafe .none rx' tx := by
  simp_all [LinkSafe]

theorem releaseTx (h : LinkSafe o rx tx) (ho : o = .tx) (htx : txHolds tx' = false) : LinkSafe .none rx tx' := by
  simp_all [LinkSafe]

theorem grantRx (h : LinkSafe o rx tx) (ho : o = .none) (hrx : rxHolds rx' = true) : LinkSafe .rx rx' tx := by
  simp_all [LinkSafe]

theorem grantTx (h : LinkSafe o rx tx) (ho : o = .none) (htx : txHolds tx' = true) : LinkSafe .tx rx tx' := by
  simp_all [LinkSafe]

end LinkSafe

/-! ### The invariant is its parts -/

theorem inv_iff {s : State} :
    Inv s ↔
      RxSafe s.rx_state s.rx_len s.rx_idx s.rx_buf s.rx_fatal s.resets ∧
      TxSafe s.tx_state s.tx_cmd s.tx_buf s.tx_cnt s.tx_idx ∧ LinkSafe s.owner s.rx_state s.tx_state := by
  constructor
  · intro h
    exact ⟨⟨h.rxWf, h.rxBounds, h.body, h.out, h.fatal⟩, ⟨h.txWf, h.txBounds, h.pending, h.emit⟩, h.rxOwns, h.txOwns⟩
  · rintro ⟨hrx, htx, hl⟩
    exact ⟨hrx.wf, htx.wf, hrx.bounds, htx.bounds, hl.1, hl.2, hrx.body, hrx.out, hrx.fatal, htx.pending, htx.emit⟩

theorem Inv.rx {s : State} (h : Inv s) : RxSafe s.rx_state s.rx_len s.rx_idx s.rx_buf s.rx_fatal s.resets :=
  (inv_iff.mp h).1

theorem Inv.tx {s : State} (h : Inv s) : TxSafe s.tx_state s.tx_cmd s.tx_buf s.tx_cnt s.tx_idx := (inv_iff.mp h).2.1

theorem Inv.link {s : State} (h : Inv s) : LinkSafe s.owner s.rx_state s.tx_state := (inv_iff.mp h).2.2

end Sys2Proof.Machine
end

section
/-! Each step of RX, TX, the arbiter and HOST keeps the invariant, and so does a step of the machine. -/

namespace Sys2Proof.Machine

/-! ### After a reset -/

theorem inv_bootWith (evs : List EventWord) (cmds : List CmdRecord) (turns : List Turn) :
    Inv (bootWith evs cmds turns) :=
  inv_iff.mpr ⟨.initial _ _ _, .initial _ _ _, by simp [bootWith, State.reset, LinkSafe, rxHolds, txHolds]⟩

theorem inv_resetBlock (s : State) : Inv (resetBlock s) :=
  inv_iff.mpr ⟨.initial _ _ _, .initial _ _ _, by simp [LinkSafe, rxHolds, txHolds]⟩

/-- The histories, the inputs and the schedule are no part of the invariant. -/
theorem Inv.outside {s : State} (h : Inv s) {wi : List EventWord} {wo : List (Byte × Ack)}
    {dl : List (DiagCode × DiagInfo)} {tl : List TxStatus} {fs : List FoFrame} {rst : Bool} {evs : List EventWord}
    {cmds : List CmdRecord} {turns : List Turn} :
    Inv { s with
      wire_in := wi, wire_out := wo, diag_log := dl, txs_log := tl, delivered := fs, rst := rst, rx_ev := evs,
      cmd := cmds, sched := turns } :=
  inv_iff.mpr ⟨h.rx, h.tx, h.link⟩

/-! ### RX -/

theorem raiseDrop_keeps_inv {s : State} (h : Inv s) (c : DiagCode) (i : DiagInfo) (hs : s.rx_state ≠ .fatal) :
    Inv (raiseDrop c i s) := by
  rw [raiseDrop_eq]
  exact inv_iff.mpr ⟨h.rx.move hs (.inl rfl), h.tx, h.link.dropRx rfl⟩

theorem raiseFatal_keeps_inv {s : State} (h : Inv s) (c : FatalCause) : Inv (raiseFatal c s) := by
  rw [raiseFatal_eq]
  exact inv_iff.mpr ⟨h.rx.terminate c, h.tx, h.link.dropRx rfl⟩

/-- The last byte of a frame: the verdict leaves a frame that may be offered, or none (R103). -/
theorem verifyFrame_keeps_inv {s t : State} (h : Inv s) (hs : s.rx_state = .body) {d : Byte}
    (hi : s.rx_len.toNat ≤ s.rx_idx.toNat + 1)
    (hv : verifyFrame { s with rx_buf := memPut s.rx_buf s.rx_idx.toNat d, rx_idx := s.rx_len } = .next t) :
    Inv t := by
  obtain ⟨received, computed, hsums, ⟨rfl, ho, rfl⟩ | ⟨-, rfl⟩⟩ := verifyFrame_eq_next.mp hv
  · have hck : ckOk (rxRead { s with rx_buf := memPut s.rx_buf s.rx_idx.toNat d, rx_idx := s.rx_len }) s.rx_len
        = some true := by simp [ckOk, hsums]
    exact inv_iff.mpr ⟨h.rx.offer hs hi hck, h.tx, h.link.releaseRx ho rfl⟩
  · rw [raiseDrop_eq]
    exact inv_iff.mpr ⟨h.rx.dropLast hs d hi, h.tx, h.link.dropRx rfl⟩

theorem execByte_keeps_inv {d : Byte} {s t : State} (h : Inv s) (hx : execByte d s = .next t) : Inv t := by
  rcases execByte_cases hx with ⟨-, rfl⟩ | ⟨hs, -, rfl⟩ | ⟨-, -, rfl⟩ | ⟨hs, -, rfl⟩ | ⟨hs, -, ho, rfl⟩ |
    ⟨hs, hd, rfl⟩ | ⟨hs, -, rfl⟩ | ⟨hs, hi, rfl⟩ | ⟨hs, hi, hv⟩
  · exact h
  · exact inv_iff.mpr ⟨h.rx.move (by simp [hs]) (by simp), h.tx, h.link.moveRx (by rw [hs]; rfl)⟩
  · exact h.outside
  · exact inv_iff.mpr ⟨h.rx.move (by simp [hs]) (by simp), h.tx, h.link.moveRx (by rw [hs]; rfl)⟩
  · exact inv_iff.mpr ⟨h.rx.move (by simp [hs]) (by simp), h.tx, h.link.releaseRx ho rfl⟩
  · exact inv_iff.mpr ⟨h.rx.storeLength hs hd, h.tx, h.link.moveRx (by rw [hs]; rfl)⟩
  · exact raiseDrop_keeps_inv h _ _ (by simp [hs])
  · exact inv_iff.mpr ⟨h.rx.storeMiddle hs d hi, h.tx, h.link⟩
  · exact verifyFrame_keeps_inv h hs hi hv

/-- The operation of an event word, where RX is ready for it. -/
theorem execEvent_keeps_inv {w : EventWord} {s t : State} (h : Inv s) (hr : rxEvReady s = true)
    (hx : exec (decodeEvent w) s = .next t) : Inv t := by
  rcases execEvent_cases hr hx with ⟨d, -, hb⟩ | ⟨-, rfl⟩ | ⟨-, rfl⟩ | ⟨-, rfl⟩
  · exact execByte_keeps_inv h hb
  · split
    · rename_i hs
      exact raiseDrop_keeps_inv h _ _ (by rcases hs with hs | hs <;> simp [hs])
    · exact h
  · exact raiseFatal_keeps_inv h _
  · exact raiseFatal_keeps_inv h _

theorem deliver_keeps_inv {s t : State} (h : Inv s) (hs : s.rx_state = .out) (hd : deliver s = .next t) : Inv t := by
  obtain ⟨-, f, -, rfl⟩ := deliver_eq_next.mp hd
  exact inv_iff.mpr ⟨h.rx.move (by simp [hs]) (by simp), h.tx, h.link.moveRx (by rw [hs]; rfl)⟩

theorem rxTurn_keeps_inv {f : Bool} {s t : State} (h : Inv s) (ht : rxTurn f s = .next t) : Inv t := by
  rcases rxTurn_eq_next.mp ht with ⟨hs, -, hd⟩ | ⟨-, -, rfl⟩ | ⟨-, hr⟩
  · exact deliver_keeps_inv h hs hd
  · exact h
  · rcases rxStep_eq_next.mp hr with ⟨w, ws, hready, -, hx⟩ | ⟨-, rfl⟩
    · exact execEvent_keeps_inv (s := takeEvent w ws s) h.outside hready hx
    · exact h

/-! ### TX -/

/-- TX ends a command and gives up the link (R120, R126). -/
theorem Inv.endCommand {s : State} (h : Inv s) (ho : s.owner = .tx) (log : List TxStatus) :
    Inv { s with owner := .none, txs_log := log, tx_state := .idle } :=
  inv_iff.mpr ⟨h.rx, h.tx.rest (.inl rfl), h.link.releaseTx ho rfl⟩

theorem raiseTxErr_keeps_inv {c : TxStatus} {s t : State} (h : Inv s) (hx : raiseTxErr c s = .next t) : Inv t := by
  obtain ⟨ho, rfl⟩ := raiseTxErr_eq_next.mp hx
  exact h.endCommand ho _

theorem execCommand_keeps_inv {r : CmdRecord} {s t : State} (h : Inv s) (hs : s.tx_state = .idle)
    (hx : exec (decodeCommand r) s = .next t) : Inv t := by
  have hready : cmdReady s = true := by simp [cmdReady, hs]
  have hlatch (hr : isFrameCommand (decodeCommand r) = true) : Inv (latchCommand r s) :=
    inv_iff.mpr ⟨h.rx, h.tx.latch hr, h.link.moveTx (by rw [hs]; rfl)⟩
  rcases execCommand_cases (r := r) hready with
    ⟨⟨serr, n, op, hdr, pay, hdec⟩, he⟩ | ⟨⟨m, bytes, hdec⟩, he⟩ | ⟨-, he⟩ | ⟨-, he⟩ <;>
    obtain rfl := next_eq_next.mp (he.symm.trans hx)
  · exact hlatch (by rw [hdec]; rfl)
  · exact hlatch (by rw [hdec]; rfl)
  · exact inv_iff.mpr ⟨h.rx, h.tx.rest (.inr rfl), h.link.moveTx (by rw [hs]; rfl)⟩
  · exact h.outside

/-- The frame of an `ENCODE` whose payload is as long as it says: length, header, payload and checksum. -/
theorem length_encodeFrame (n : Byte) (op : U16) (hdr : HdrBytes) (pay : List Byte) :
    (encodeFrame n op hdr pay).length = Config.minLen + pay.length := by
  simp [encodeFrame, withChecksum, frameBody, Config.minLen, Config.hdrLen, Config.ckLen]
  omega

/-- The frame of a latched `ENCODE` that passes the length check fits a length byte (R115). -/
theorem length_encodeFrame_le {r : CmdRecord} {serr : Bool} {n : Byte} {op : U16} {hdr : HdrBytes} {pay : List Byte}
    (hdec : decodeCommand r = .encode serr n op hdr pay) (hn : n.toNat ≤ Config.maxPayload) :
    (encodeFrame n op hdr pay).length ≤ Config.maxLen :=
  calc (encodeFrame n op hdr pay).length = Config.minLen + pay.length := length_encodeFrame n op hdr pay
    _ = Config.minLen + n.toNat := by rw [payload_length_of_decode hdec]
    _ ≤ Config.minLen + Config.maxPayload := Nat.add_le_add_left hn _
    _ = Config.maxLen := rfl

/-- A latched `RAW` has at most 255 bytes (R72). -/
theorem length_raw_le {r : CmdRecord} {m : Byte} {bytes : List Byte} (hdec : decodeCommand r = .raw m bytes) :
    bytes.length ≤ Config.maxLen :=
  raw_length_of_decode hdec ▸ Nat.le_of_lt_succ m.isLt

theorem loadImage_keeps_inv {frame : List Byte} {s t : State} (h : Inv s) (hs : s.tx_state = .enc)
    (hlen : frame.length ≤ Config.maxLen) (hx : loadImage (wireImage frame) s = .next t) : Inv t := by
  obtain ⟨m, hm, rfl⟩ := loadImage_eq_next.mp hx
  exact inv_iff.mpr ⟨h.rx, h.tx.load hlen hm, h.link.moveTx (by rw [hs]; rfl)⟩

theorem encStep_keeps_inv {s t : State} (h : Inv s) (hs : s.tx_state = .enc) (hx : encStep s = .next t) : Inv t := by
  rcases encStep_eq_next.mp hx with ⟨serr, n, op, hdr, pay, hdec, he⟩ | ⟨m, bytes, hdec, hl⟩
  · rcases encEncode_eq_next.mp he with ⟨-, he⟩ | ⟨-, -, he⟩ | ⟨-, hn, hl⟩
    · exact raiseTxErr_keeps_inv h he
    · exact raiseTxErr_keeps_inv h he
    · exact loadImage_keeps_inv h hs (length_encodeFrame_le hdec hn) hl
  · exact loadImage_keeps_inv h hs (length_raw_le hdec) hl

theorem emitStep_keeps_inv {a : Ack} {s t : State} (h : Inv s) (hs : s.tx_state = .emit)
    (hx : emitStep a s = .next t) : Inv t := by
  obtain ⟨b, -, ha⟩ := emitStep_eq_next.mp hx
  have h' : Inv { s with wire_out := s.wire_out ++ [(b, a)] } := h.outside
  rcases afterAck_eq_next.mp ha with ⟨-, he⟩ | ⟨-, -, ho, rfl⟩ | ⟨-, hne, rfl⟩
  · exact raiseTxErr_keeps_inv h' he
  · exact h'.endCommand ho _
  · exact inv_iff.mpr ⟨h.rx, h.tx.advance hs hne, h.link⟩

theorem txTurn_keeps_inv {a : Option Ack} {s t : State} (h : Inv s) (ht : txTurn a s = .next t) : Inv t := by
  rcases txTurn_eq_next.mp ht with ⟨hs, hacc⟩ | ⟨hs, he⟩ | ⟨k, hs, -, he⟩ | ⟨-, rfl⟩
  · rcases acceptStep_eq_next.mp hacc with ⟨r, rs, -, hx⟩ | ⟨-, rfl⟩
    · exact execCommand_keeps_inv (s := takeRecord rs s) h.outside hs hx
    · exact h
  · exact encStep_keeps_inv h hs he
  · exact emitStep_keeps_inv h hs he
  · exact h

/-! ### The arbiter, HOST, and the machine -/

theorem arbTurn_keeps_inv {s : State} (c : Grantee) (h : Inv s) : Inv (arbTurn c s) := by
  rcases arbTurn_cases c s with ⟨he, ho, hs⟩ | ⟨he, ho, hs⟩ | ⟨he, -⟩ <;> rw [he]
  · exact inv_iff.mpr ⟨h.rx.move (by simp [hs]) (by simp), h.tx, h.link.grantRx ho rfl⟩
  · exact inv_iff.mpr ⟨h.rx, h.tx.grant hs, h.link.grantTx ho rfl⟩
  · exact h

theorem hostTurn_keeps_inv {op : HostOp} {s t : State} (h : Inv s) (ht : hostTurn op s = .next t) : Inv t := by
  rcases hostTurn_eq_next.mp ht with ⟨-, rfl⟩ | ⟨-, -, rfl⟩ | ⟨r, -, rfl⟩ | ⟨-, rfl⟩ | ⟨-, rfl⟩
  · exact inv_resetBlock _
  all_goals exact h.outside

theorem step_keeps_inv {s t : State} (h : Inv s) (ht : step s = .next t) : Inv t := by
  rcases step_eq_next.mp ht with ⟨-, rfl⟩ | ⟨u, us, -, hu⟩
  · exact h
  · have h' : Inv { s with sched := us } := h.outside
    rcases hu with ⟨op, -, hx⟩ | ⟨-, -, rfl⟩ | ⟨f, -, -, hx⟩ | ⟨a, -, -, hx⟩ | ⟨c, -, -, rfl⟩
    · exact hostTurn_keeps_inv h' hx
    · exact inv_resetBlock _
    · exact rxTurn_keeps_inv h' hx
    · exact txTurn_keeps_inv h' hx
    · exact arbTurn_keeps_inv c h'

/-- Settles O51: each turn that a step can take keeps the invariant. -/
theorem stepKeepsInv : Obligations.StepKeepsInv := fun _ _ => step_keeps_inv

/-- Settles O50. -/
theorem invAtReset : Obligations.InvAtReset := ⟨inv_bootWith [] [] [], inv_bootWith⟩

/-! ### Runs -/

/-- What every step keeps, a run keeps. -/
theorem runs_induction {P : State → Prop} (hstep : ∀ s t, P s → step s = .next t → P t) (k : Nat) {s t : State}
    (hs : P s) (h : runs k s = .next t) : P t := by
  induction k generalizing s with
  | zero => exact next_eq_next.mp h ▸ hs
  | succ k ih =>
    simp only [runs, Host.Core.run] at h
    split at h
    · rename_i u hu
      exact ih (hstep s u hs hu) h
    all_goals cases h

theorem inv_of_runs {evs : List EventWord} {cmds : List CmdRecord} {turns : List Turn} {k : Nat} {t : State}
    (h : runs k (bootWith evs cmds turns) = .next t) : Inv t :=
  runs_induction (fun _ _ => step_keeps_inv) k (inv_bootWith evs cmds turns) h

theorem rxHolds_iff {st : RxState} : rxHolds st = true ↔ st = .seen1 ∨ st = .len ∨ st = .body := by
  cases st <;> simp [rxHolds]

theorem txHolds_iff {st : TxState} : txHolds st = true ↔ st = .enc ∨ st = .emit := by
  cases st <;> simp [txHolds]

/-- Settles O53: the invariant's two halves of R31; one owner cannot be both agents. -/
theorem ownerNamesTheHolder : Obligations.OwnerNamesTheHolder := by
  intro evs cmds turns k t ht
  obtain ⟨hrx, htx⟩ := (inv_of_runs ht).link
  rw [rxHolds_iff] at hrx
  rw [txHolds_iff] at htx
  refine ⟨hrx, htx, fun ⟨hr, htr⟩ => ?_⟩
  have := (hrx.mpr hr).symm.trans (htx.mpr htr)
  cases this

end Sys2Proof.Machine
end

section
/-! The reader's operands over a buffer that is written where they read it, and the frame record of R25. -/

namespace Sys2Proof.Machine

theorem readBe16_eq_some {rd : Nat → Option Byte} {a : Nat} {v : U16} :
    readBe16 rd a = some v ↔ ∃ hi lo, rd a = some hi ∧ rd (a + 1) = some lo ∧ v = be16 hi lo := by
  unfold readBe16
  cases rd a <;> cases rd (a + 1) <;> simp [eq_comm]

/-- The frame record, field by field (R25). -/
theorem foRecord_eq_some {rd : Nat → Option Byte} {L : Byte} {f : FoFrame} :
    foRecord rd L = some f ↔
      readRange rd 0 L.toNat = some f.bytes ∧ rd 1 = some f.origin_subnet ∧ rd 2 = some f.origin_device ∧
      readBe16 rd 3 = some f.origin_device_type ∧ readBe16 rd 5 = some f.opcode ∧ rd 7 = some f.target_subnet ∧
      rd 8 = some f.target_device ∧ readRange rd 9 (L.toNat - Config.minLen) = some f.payload ∧
      readBe16 rd (L.toNat - 2) = some f.checksum ∧ f.len = L ∧
      f.payload_len = BitVec.ofNat 8 (L.toNat - Config.minLen) := by
  simp only [foRecord, Option.bind_eq_bind, Option.bind_eq_some_iff, Option.some.injEq]
  constructor
  · rintro ⟨bytes, hb, os, h1, od, h2, ot, h3, op, h5, ts, h7, td, h8, pay, hp, ck, hc, rfl⟩
    exact ⟨hb, h1, h2, h3, h5, h7, h8, hp, hc, rfl, rfl⟩
  · rintro ⟨hb, h1, h2, h3, h5, h7, h8, hp, hc, rfl, hpl⟩
    exact ⟨_, hb, _, h1, _, h2, _, h3, _, h5, _, h7, _, h8, _, hp, _, hc, by rw [← hpl]⟩

section
variable {rd rd' : Nat → Option Byte} {L : Byte}

theorem readBe16_isSome {a : Nat} (h : (rd a).isSome = true) (h' : (rd (a + 1)).isSome = true) :
    ∃ v, readBe16 rd a = some v := by
  obtain ⟨hi, hhi⟩ := Option.isSome_iff_exists.mp h
  obtain ⟨lo, hlo⟩ := Option.isSome_iff_exists.mp h'
  exact ⟨_, readBe16_eq_some.mpr ⟨hi, lo, hhi, hlo, rfl⟩⟩

/-- A frame of legal length whose bytes all read has a record. -/
theorem foRecord_isSome (hL : Config.minLen ≤ L.toNat) (h : ∀ a, a < L.toNat → (rd a).isSome = true) :
    ∃ f, foRecord rd L = some f := by
  have hL : 11 ≤ L.toNat := hL
  have hmin : Config.minLen = 11 := rfl
  have hbyte (a : Nat) (ha : a < 11) : ∃ v, rd a = some v := Option.isSome_iff_exists.mp (h a (by omega))
  obtain ⟨bytes, hb⟩ := readRange_isSome (rd := rd) (a := 0) (n := L.toNat) fun i hi => h _ (by omega)
  obtain ⟨pay, hp⟩ := readRange_isSome (rd := rd) (a := 9) (n := L.toNat - Config.minLen) fun i hi => h _ (by omega)
  obtain ⟨ck, hc⟩ := readBe16_isSome (h (L.toNat - 2) (by omega)) (h (L.toNat - 2 + 1) (by omega))
  obtain ⟨b1, h1⟩ := hbyte 1 (by omega)
  obtain ⟨b2, h2⟩ := hbyte 2 (by omega)
  obtain ⟨v3, h3⟩ := readBe16_isSome (h 3 (by omega)) (h 4 (by omega))
  obtain ⟨v5, h5⟩ := readBe16_isSome (h 5 (by omega)) (h 6 (by omega))
  obtain ⟨b7, h7⟩ := hbyte 7 (by omega)
  obtain ⟨b8, h8⟩ := hbyte 8 (by omega)
  exact ⟨⟨L, bytes, b1, b2, v3, v5, b7, b8, _, pay, ck⟩,
    foRecord_eq_some.mpr ⟨hb, h1, h2, h3, h5, h7, h8, hp, hc, rfl, rfl⟩⟩

/-- The sums of a frame whose bytes all read exist. -/
theorem frameSums_isSome (hL : 2 ≤ L.toNat) (h : ∀ a, a < L.toNat → (rd a).isSome = true) :
    ∃ received computed, frameSums rd L = some (received, computed) := by
  obtain ⟨bs, hbs⟩ := readRange_isSome (rd := rd) (a := 0) (n := L.toNat - 2) fun i hi => h _ (by omega)
  obtain ⟨v, hv⟩ := readBe16_isSome (h (L.toNat - 2) (by omega)) (h (L.toNat - 2 + 1) (by omega))
  exact ⟨v, _, by rw [frameSums, hbs, hv]⟩

/-- The sums depend on the bytes of the frame only. -/
theorem frameSums_congr (hL : 2 ≤ L.toNat) (h : ∀ a, a < L.toNat → rd a = rd' a) :
    frameSums rd L = frameSums rd' L := by
  have hbytes : readRange rd 0 (L.toNat - 2) = readRange rd' 0 (L.toNat - 2) :=
    readRange_congr fun i hi => h _ (by omega)
  rw [frameSums, frameSums, readBe16, readBe16, hbytes, h _ (by omega), h (L.toNat - 2 + 1) (by omega)]

/-- The frame record depends on the bytes of the frame only. -/
theorem foRecord_congr (hL : Config.minLen ≤ L.toNat) (h : ∀ a, a < L.toNat → rd a = rd' a) :
    foRecord rd L = foRecord rd' L := by
  have hL : 11 ≤ L.toNat := hL
  have hmin : Config.minLen = 11 := rfl
  have hbytes : readRange rd 0 L.toNat = readRange rd' 0 L.toNat := readRange_congr fun i hi => h _ (by omega)
  have hpay : readRange rd 9 (L.toNat - Config.minLen) = readRange rd' 9 (L.toNat - Config.minLen) :=
    readRange_congr fun i hi => h _ (by omega)
  have hbe (a : Nat) (ha : a + 1 < L.toNat) : readBe16 rd a = readBe16 rd' a := by
    rw [readBe16, readBe16, h a (by omega), h (a + 1) ha]
  rw [foRecord, foRecord, hbytes, hpay, h 1 (by omega), h 2 (by omega), hbe 3 (by omega), hbe 5 (by omega),
    h 7 (by omega), h 8 (by omega), hbe (L.toNat - 2) (by omega)]

end

/-- Settles O35: every byte of RXBUF reads, so a frame of legal length has its record. -/
theorem frameRecordFields : Obligations.FrameRecordFields := by
  refine fun s => ⟨fun hs => by simp [foValid, hs], fun hs hL => ?_⟩
  have hvalid : foValid s = true := by simp [foValid, hs]
  have hlt := s.rx_len.isLt
  obtain ⟨f, hf⟩ := foRecord_isSome (rd := rxRead s) (L := s.rx_len) hL fun a ha =>
    (rxRead_isSome s a).mpr (show a < 255 by omega)
  obtain ⟨hb, h1, h2, h3, h5, h7, h8, hp, hc, hlen, hplen⟩ := foRecord_eq_some.mp hf
  obtain ⟨hblen, hbytes⟩ := readRange_eq_some.mp hb
  obtain ⟨hpl, hpay⟩ := readRange_eq_some.mp hp
  have hbe {a : Nat} {v : U16} (h : readBe16 (rxRead s) a = some v) :
      ∃ hi lo, rxRead s a = some hi ∧ rxRead s (a + 1) = some lo ∧ v.toNat = hi.toNat * 256 + lo.toNat := by
    obtain ⟨hi, lo, hhi, hlo, rfl⟩ := readBe16_eq_some.mp h
    exact ⟨hi, lo, hhi, hlo, be16_toNat hi lo⟩
  have hck := hbe hc
  rw [show s.rx_len.toNat - 2 + 1 = s.rx_len.toNat - 1 by omega] at hck
  refine ⟨hvalid, f, by rw [fo, if_pos hvalid, hf], hlen, hblen, fun i hi => ?_, h1, h2, hbe h3, hbe h5, h7, h8, ?_,
    hpl, fun i hi => (hpay i hi).symm, hck⟩
  · rw [← hbytes i hi, Nat.zero_add]
  · rw [hplen, BitVec.toNat_ofNat]
    exact Nat.mod_eq_of_lt (by omega)

end Sys2Proof.Machine
end

section
/-! From a state with the invariant a turn answers a next state, and it shows no byte that nothing has written: the count of
resets, which picks the free values of such bytes, makes no difference to it (10_state.md R23). -/

namespace Sys2Proof.Machine

/-- `f` answers a next state from `s`, the same whatever the count of resets, that count apart. -/
def RunsOnWritten (f : State → Result) (s : State) : Prop :=
  ∃ t : State, ∀ k, f { s with resets := k } = .next { t with resets := k }

namespace RunsOnWritten

variable {f g : State → Result} {s t : State}

theorem answers (h : RunsOnWritten f s) : ∃ t, f s = .next t := by
  obtain ⟨t, ht⟩ := h
  exact ⟨_, ht s.resets⟩

theorem under_resets (h : RunsOnWritten f s) (hf : f s = .next t) (k : Nat) :
    f { s with resets := k } = .next { t with resets := k } := by
  obtain ⟨u, hu⟩ := h
  obtain rfl := next_eq_next.mp ((hu s.resets).symm.trans hf)
  exact hu k

/-- Two functions that agree on a state whatever its count of resets. -/
theorem congr (h : RunsOnWritten g s) (hfg : ∀ k, f { s with resets := k } = g { s with resets := k }) :
    RunsOnWritten f s := by
  obtain ⟨t, ht⟩ := h
  exact ⟨t, fun k => (hfg k).trans (ht k)⟩

/-- A turn that passes. -/
theorem pass (h : ∀ k, f { s with resets := k } = .next { s with resets := k }) : RunsOnWritten f s := ⟨s, h⟩

end RunsOnWritten

/-! ### RX -/

/-- The bytes of a frame that is stored whole are read the same under every count of resets. -/
theorem rxRead_resets {s : State} {n : Nat} (hw : Written s.rx_buf n) (k : Nat) :
    ∀ a, a < n → rxRead { s with resets := k } a = rxRead s a :=
  fun a ha => bufRead_free_irrelevant _ _ (hw a ha)

/-- Every byte of a frame reads: a length byte is at most 255. -/
theorem rxRead_frame (s : State) : ∀ a, a < s.rx_len.toNat → (rxRead s a).isSome = true := fun a ha => by
  have := s.rx_len.isLt
  exact (rxRead_isSome s a).mpr (show a < 255 by omega)

theorem raiseDrop_resets (c : DiagCode) (i : DiagInfo) (s : State) (k : Nat) :
    raiseDrop c i { s with resets := k } = { raiseDrop c i s with resets := k } := by
  rw [raiseDrop_eq, raiseDrop_eq]

theorem raiseFatal_resets (c : FatalCause) (s : State) (k : Nat) :
    raiseFatal c { s with resets := k } = { raiseFatal c s with resets := k } := by
  rw [raiseFatal_eq, raiseFatal_eq]

/-- The verdict on a frame that is stored whole. -/
theorem verifyFrame_runs {s : State} (hL : Config.minLen ≤ s.rx_len.toNat) (hw : Written s.rx_buf s.rx_len.toNat)
    (ho : s.owner = .rx) : RunsOnWritten verifyFrame s := by
  have hL : 2 ≤ s.rx_len.toNat := Nat.le_trans (by decide) hL
  obtain ⟨received, computed, hs⟩ := frameSums_isSome hL (rxRead_frame s)
  have hsums (k : Nat) : frameSums (rxRead { s with resets := k }) s.rx_len = some (received, computed) :=
    (frameSums_congr hL (rxRead_resets hw k)).trans hs
  by_cases hc : computed = received
  · exact ⟨{ s with owner := .none, rx_state := .out }, fun k =>
      verifyFrame_eq_next.mpr ⟨_, _, hsums k, .inl ⟨hc, ho, rfl⟩⟩⟩
  · exact ⟨raiseDrop .checksumMismatch (.sums received computed) s, fun k =>
      verifyFrame_eq_next.mpr ⟨_, _, hsums k, .inr ⟨hc, (raiseDrop_resets _ _ s k).symm⟩⟩⟩

theorem huntByte_runs (d : Byte) (s : State) : RunsOnWritten (huntByte d) s := by
  by_cases hd : d = Config.marker
  · exact ⟨{ s with rx_state := .acq }, fun k => by rw [huntByte, if_pos hd]⟩
  · exact ⟨diag .unsyncedByte (.byte d) s, fun k => by rw [huntByte, if_neg hd]; rfl⟩

theorem seen1Byte_runs (d : Byte) {s : State} (ho : s.owner = .rx) : RunsOnWritten (seen1Byte d) s := by
  by_cases hd : d = Config.marker
  · exact ⟨{ s with rx_state := .len }, fun k => by rw [seen1Byte, if_pos hd]; rfl⟩
  · refine ⟨{ s with owner := .none, diag_log := s.diag_log ++ [(.falseStart, .byte d)], rx_state := .hunt },
      fun k => ?_⟩
    rw [seen1Byte, if_neg hd]
    exact falseStart_eq_next.mpr ⟨ho, rfl⟩

theorem lenByte_runs (d : Byte) (s : State) : RunsOnWritten (lenByte d) s := by
  by_cases hd : Config.minLen ≤ d.toNat
  · exact ⟨{ s with rx_len := d, rx_buf := memPut s.rx_buf 0 d, rx_idx := 1#8, rx_state := .body }, fun k => by
      rw [lenByte, if_pos hd, lenAccepted_eq]⟩
  · exact ⟨raiseDrop .shortLength (.byte d) s, fun k => by
      rw [lenByte, if_neg hd, lenShort, raiseDrop_resets]⟩

theorem bodyByte_runs (d : Byte) {s : State} (h : Inv s) (hs : s.rx_state = .body) :
    RunsOnWritten (bodyByte d) s := by
  obtain ⟨hlen, -, hlt, hw, -⟩ := h.body hs
  have ho : s.owner = .rx := h.rxOwns.mpr (by rw [hs]; rfl)
  have hidx : s.rx_idx.toNat < Config.rxBufSize := by
    have := s.rx_len.isLt
    show _ < 255
    omega
  by_cases hi : s.rx_idx.toNat + 1 < s.rx_len.toNat
  · refine ⟨{ s with rx_buf := memPut s.rx_buf s.rx_idx.toNat d, rx_idx := s.rx_idx + 1#8 }, fun k => ?_⟩
    rw [bodyByte, if_pos hi]
    exact bodyMiddle_eq_next.mpr ⟨hidx, rfl⟩
  · obtain ⟨-, -, hstored, -⟩ := h.rx.storeLast hs d (Nat.le_of_not_lt hi)
    obtain ⟨t, ht⟩ := verifyFrame_runs
      (s := { s with rx_buf := memPut s.rx_buf s.rx_idx.toNat d, rx_idx := s.rx_len }) hlen hstored ho
    refine ⟨t, fun k => ?_⟩
    rw [bodyByte, if_neg hi]
    exact bodyLast_eq_next.mpr ⟨hlen, hidx, ht k⟩

theorem execByte_runs (d : Byte) {s : State} (h : Inv s) : RunsOnWritten (execByte d) s := by
  cases hs : s.rx_state with
  | hunt => exact (huntByte_runs d s).congr fun k => by simp only [execByte, hs]
  | seen1 => exact (seen1Byte_runs d (h.rxOwns.mpr (by rw [hs]; rfl))).congr fun k => by simp only [execByte, hs]
  | len => exact (lenByte_runs d s).congr fun k => by simp only [execByte, hs]
  | body => exact (bodyByte_runs d h hs).congr fun k => by simp only [execByte, hs]
  | acq | out | fatal => exact .pass fun k => by simp only [execByte, hs]

theorem execEvent_runs (w : EventWord) {s : State} (h : Inv s) (hr : rxEvReady s = true) :
    RunsOnWritten (exec (decodeEvent w)) s := by
  have hready (k : Nat) : rxEvReady { s with resets := k } = true := hr
  rcases decodeEvent_cases w with ⟨-, hw⟩ | ⟨-, hw⟩ | ⟨-, hw⟩ | ⟨-, hw⟩ <;> rw [hw]
  · exact execByte_runs _ h
  · by_cases hs : s.rx_state = .len ∨ s.rx_state = .body
    · exact ⟨raiseDrop .readTimeout (.index s.rx_idx) s, fun k => by
        rw [exec, execTimeout_eq, if_pos hs, raiseDrop_resets]⟩
    · exact .pass fun k => by rw [exec, execTimeout_eq, if_neg hs]
  · exact ⟨raiseFatal .error s, fun k => by rw [exec, execError_eq, if_pos (hready k), raiseFatal_resets]⟩
  · exact ⟨raiseFatal .closed s, fun k => by rw [exec, execClosed_eq, if_pos (hready k), raiseFatal_resets]⟩

/-- The frame in OUT is stored whole, so its record shows no free value. -/
theorem deliver_runs {s : State} (h : Inv s) (hs : s.rx_state = .out) : RunsOnWritten deliver s := by
  obtain ⟨hlen, hw, -, -⟩ := h.out hs
  obtain ⟨f, hf⟩ := foRecord_isSome hlen (rxRead_frame s)
  exact ⟨{ s with delivered := s.delivered ++ [f], rx_state := .hunt }, fun k =>
    deliver_eq_next.mpr ⟨hlen, f, (foRecord_congr hlen (rxRead_resets hw k)).trans hf, rfl⟩⟩

theorem rxStep_runs {s : State} (h : Inv s) : RunsOnWritten rxStep s := by
  cases hr : rxEvReady s with
  | false => exact .pass fun k => rxStep_eq_next.mpr (.inr ⟨.inl hr, rfl⟩)
  | true =>
    cases he : s.rx_ev with
    | nil => exact .pass fun k => rxStep_eq_next.mpr (.inr ⟨.inr he, rfl⟩)
    | cons w ws =>
      obtain ⟨t, ht⟩ := execEvent_runs w (s := takeEvent w ws s) h.outside hr
      exact ⟨t, fun k => rxStep_eq_next.mpr (.inl ⟨w, ws, hr, he, ht k⟩)⟩

theorem rxTurn_runs (f : Bool) {s : State} (h : Inv s) : RunsOnWritten (rxTurn f) s := by
  by_cases hs : s.rx_state = .out
  · cases f with
    | false => exact .pass fun k => rxTurn_eq_next.mpr (.inr (.inl ⟨hs, rfl, rfl⟩))
    | true =>
      obtain ⟨t, ht⟩ := deliver_runs h hs
      exact ⟨t, fun k => rxTurn_eq_next.mpr (.inl ⟨hs, rfl, ht k⟩)⟩
  · obtain ⟨t, ht⟩ := rxStep_runs h
    exact ⟨t, fun k => rxTurn_eq_next.mpr (.inr (.inr ⟨hs, ht k⟩))⟩

/-! ### TX -/

theorem raiseTxErr_runs (c : TxStatus) {s : State} (ho : s.owner = .tx) : RunsOnWritten (raiseTxErr c) s :=
  ⟨{ s with owner := .none, txs_log := s.txs_log ++ [c], tx_state := .idle }, fun _ =>
    raiseTxErr_eq_next.mpr ⟨ho, rfl⟩⟩

theorem execCommand_runs (r : CmdRecord) {s : State} (h : cmdReady s = true) :
    RunsOnWritten (exec (decodeCommand r)) s := by
  rcases decodeCommand_cases r with ⟨hdr, pay, -, -, -, -, he⟩ | ⟨-, -, -, he⟩ | ⟨-, -, he⟩ | ⟨-, -, -, he⟩ <;> rw [he]
  · exact ⟨latchCommand (encodeRecord _ _ _ hdr pay) s, fun _ => execEncode_ready h⟩
  · exact ⟨latchCommand (rawRecord _ _) s, fun _ => execRaw_ready h⟩
  · exact ⟨{ txStatus .closedOk s with tx_state := .closed }, fun _ => execClose_ready h⟩
  · exact ⟨txStatus .illegalCmd s, fun _ => execIllegal_ready (r := r) h⟩

theorem acceptStep_runs {s : State} (hs : s.tx_state = .idle) : RunsOnWritten acceptStep s := by
  cases hc : s.cmd with
  | nil => exact .pass fun k => acceptStep_eq_next.mpr (.inr ⟨hc, rfl⟩)
  | cons r rs =>
    obtain ⟨t, ht⟩ := execCommand_runs r (s := takeRecord rs s) (by simp [cmdReady, hs])
    exact ⟨t, fun k => acceptStep_eq_next.mpr (.inl ⟨r, rs, hc, ht k⟩)⟩

/-- An image that fits is assembled. -/
theorem loadImage_runs {frame : List Byte} (s : State) (hlen : frame.length ≤ Config.maxLen) :
    RunsOnWritten (loadImage (wireImage frame)) s := by
  have hfit : 0 + (wireImage frame).length ≤ Config.txBufSize := by
    have hlen : frame.length ≤ 255 := hlen
    show _ ≤ 257
    simp only [wireImage, markerBytes, List.length_append, List.length_cons, List.length_nil]
    omega
  obtain ⟨m, hm⟩ := memWriteList_inside s.tx_buf 0 (wireImage frame) hfit
  exact ⟨{ s with
      tx_buf := m, tx_cnt := BitVec.ofNat 9 (wireImage frame).length, tx_idx := 0#9, tx_state := .emit },
    fun _ => loadImage_eq_next.mpr ⟨m, hm, rfl⟩⟩

theorem encEncode_runs {serr : Bool} {n : Byte} {op : U16} {hdr : HdrBytes} {pay : List Byte} {s : State}
    (ho : s.owner = .tx) (hdec : decodeCommand s.tx_cmd = .encode serr n op hdr pay) :
    RunsOnWritten (encEncode serr n op hdr pay) s := by
  cases serr with
  | true => exact raiseTxErr_runs .encErrSerialize ho
  | false =>
    by_cases hn : n.toNat ≤ Config.maxPayload
    · obtain ⟨t, ht⟩ := loadImage_runs s (length_encodeFrame_le hdec hn)
      exact ⟨t, fun k => encEncode_eq_next.mpr (.inr (.inr ⟨rfl, hn, ht k⟩))⟩
    · obtain ⟨t, ht⟩ := raiseTxErr_runs .encErrLength ho
      exact ⟨t, fun k => encEncode_eq_next.mpr (.inr (.inl ⟨rfl, Nat.lt_of_not_le hn, ht k⟩))⟩

theorem encStep_runs {s : State} (h : Inv s) (hs : s.tx_state = .enc) : RunsOnWritten encStep s := by
  have ho : s.owner = .tx := h.txOwns.mpr (by rw [hs]; rfl)
  have hframe := h.pending (.inr hs)
  cases hdec : decodeCommand s.tx_cmd with
  | encode serr n op hdr pay => exact (encEncode_runs ho hdec).congr fun k => by simp only [encStep, hdec]
  | raw m bytes => exact (loadImage_runs s (length_raw_le hdec)).congr fun k => by simp only [encStep, hdec, encRaw]
  | byte | timeout | error | closed | close | illegal => simp [hdec, isFrameCommand] at hframe

theorem afterAck_runs (a : Ack) {s : State} (ho : s.owner = .tx) : RunsOnWritten (afterAck a) s := by
  cases a with
  | error => exact raiseTxErr_runs .txWriteError ho
  | ok =>
    by_cases hlast : s.tx_idx.toNat + 1 = s.tx_cnt.toNat
    · exact ⟨{ s with owner := .none, txs_log := s.txs_log ++ [.txDone], tx_state := .idle }, fun k =>
        afterAck_eq_next.mpr (.inr (.inl ⟨rfl, hlast, ho, rfl⟩))⟩
    · exact ⟨{ s with tx_idx := s.tx_idx + 1#9 }, fun k =>
        afterAck_eq_next.mpr (.inr (.inr ⟨rfl, hlast, rfl⟩))⟩

/-- The byte that TX emits is one of the image's, so it is a written one. -/
theorem emitStep_runs (a : Ack) {s : State} (h : Inv s) (hs : s.tx_state = .emit) : RunsOnWritten (emitStep a) s := by
  obtain ⟨-, hle, hlt, hw, -⟩ := h.emit hs
  have ho : s.owner = .tx := h.txOwns.mpr (by rw [hs]; rfl)
  obtain ⟨b, hb⟩ := Option.isSome_iff_exists.mp (hw _ hlt)
  obtain ⟨t, ht⟩ := afterAck_runs a (s := { s with wire_out := s.wire_out ++ [(b, a)] }) ho
  exact ⟨t, fun k => emitStep_eq_next.mpr ⟨b, bufRead_written (Nat.lt_of_lt_of_le hlt hle) hb, ht k⟩⟩

theorem txTurn_runs (a : Option Ack) {s : State} (h : Inv s) : RunsOnWritten (txTurn a) s := by
  cases hs : s.tx_state with
  | idle =>
    exact (acceptStep_runs hs).congr fun k => by simp only [txTurn, hs]
  | enc => exact (encStep_runs h hs).congr fun k => by simp only [txTurn, hs]
  | emit =>
    cases a with
    | none => exact .pass fun k => by simp only [txTurn, hs]
    | some a => exact (emitStep_runs a h hs).congr fun k => by simp only [txTurn, hs]
  | acq | closed => exact .pass fun k => by simp only [txTurn, hs]

/-! ### The arbiter, HOST, and the machine -/

theorem arbTurn_resets (c : Grantee) (s : State) (k : Nat) :
    arbTurn c { s with resets := k } = { arbTurn c s with resets := k } := by
  have hrx : grantRxEnabled { s with resets := k } = grantRxEnabled s := rfl
  have htx : grantTxEnabled { s with resets := k } = grantTxEnabled s := rfl
  unfold arbTurn
  rw [hrx, htx]
  split
  · rfl
  · split <;> rfl

/-- HOST's operations other than the reset and a second `start()`. -/
theorem hostTurn_runs {op : HostOp} {s : State} (hreset : op ≠ .reset) (hstart : op = .start → s.rst = true) :
    RunsOnWritten (hostTurn op) s := by
  cases op with
  | reset => exact absurd rfl hreset
  | start => exact ⟨{ s with rst := false }, fun _ => if_pos (hstart rfl)⟩
  | send r => exact ⟨{ s with cmd := s.cmd ++ [r] }, fun _ => rfl⟩
  | closeQueue => exact ⟨{ s with cmd := s.cmd ++ [closeRecord] }, fun _ => rfl⟩
  | closeStream => exact ⟨{ s with rx_ev := eventWord 3#2 0#8 :: s.rx_ev }, fun _ => rfl⟩

/-- Every turn with `rst` low but the reset and the refused `start()`. -/
theorem takeTurn_runs {u : Turn} {s : State} (h : Inv s) (hrst : s.rst = false) (hreset : u ≠ .host .reset)
    (hstart : u ≠ .host .start) : RunsOnWritten (takeTurn u) s := by
  cases u with
  | host op => exact hostTurn_runs (by rintro rfl; exact hreset rfl) (by rintro rfl; exact absurd rfl hstart)
  | rx f => exact (rxTurn_runs f h).congr fun k => by simp [takeTurn, hrst]
  | tx a => exact (txTurn_runs a h).congr fun k => by simp [takeTurn, hrst]
  | arb c => exact ⟨arbTurn c s, fun k => by simp [takeTurn, hrst, ← arbTurn_resets]⟩

/-- While `rst` is asserted every turn answers: HOST's operation, or the reset step. -/
theorem takeTurn_answers_in_reset (u : Turn) {s : State} (hrst : s.rst = true) : ∃ t, takeTurn u s = .next t := by
  cases u with
  | host op => cases op <;> simp [takeTurn, hostTurn, hrst]
  | rx | tx | arb => exact ⟨resetBlock s, by simp [takeTurn, hrst]⟩

theorem step_of_sched {s : State} {u : Turn} {us : List Turn} (h : s.sched = u :: us) :
    step s = takeTurn u { s with sched := us } := by
  simp only [step, nextTurn, h]

/-- HOST's `start()` with `rst` low is refused (R145). -/
theorem step_second_start {s : State} {us : List Turn} (h : s.sched = .host .start :: us) (hrst : s.rst = false) :
    step s = .refused .secondStart := by
  rw [step_of_sched h]
  simp [takeTurn, hostTurn, hrst]

/-- A safe state steps, unless the next turn is the `start()` that R145 gives no move. -/
theorem step_answers_or_second_start {s : State} (h : Inv s) :
    (∃ t, step s = .next t) ∨
      (step s = .refused .secondStart ∧ s.rst = false ∧ ∃ us, s.sched = .host .start :: us) := by
  cases hs : s.sched with
  | nil => exact .inl ⟨s, by simp only [step, nextTurn, hs]⟩
  | cons u us =>
    have h' : Inv { s with sched := us } := h.outside
    cases hrst : s.rst with
    | true => exact .inl (step_of_sched hs ▸ takeTurn_answers_in_reset u hrst)
    | false =>
      by_cases hstart : u = .host .start
      · subst hstart
        exact .inr ⟨step_second_start hs hrst, rfl, us, rfl⟩
      · by_cases hreset : u = .host .reset
        · subst hreset
          exact .inl ⟨_, step_of_sched hs⟩
        · exact .inl (step_of_sched hs ▸ (takeTurn_runs h' hrst hreset hstart).answers)

/-- Settles O52: outside a reset every turn of a safe state runs on written bytes. -/
theorem safeStatesNeverFault : Obligations.SafeStatesNeverFault := by
  refine fun s h => ⟨step_answers_or_second_start h, fun u us t k hrst hs hreset ht => ?_⟩
  have hstart : u ≠ .host .start := by
    rintro rfl
    rw [step_second_start hs hrst] at ht
    cases ht
  have hruns : RunsOnWritten (takeTurn u) { s with sched := us } := takeTurn_runs h.outside hrst hreset hstart
  rw [step_of_sched hs] at ht
  rw [step_of_sched (s := { s with resets := k }) hs]
  exact hruns.under_resets ht k

end Sys2Proof.Machine
end

section
/-! The observation histories only grow, and the ports that are functions of the two paths' states (10_state.md R32, R33,
R38). -/

namespace Sys2Proof.Machine

/-! ### The histories -/

/-- Each history of `t` continues the one of `s`. -/
def HistoriesContinue (s t : State) : Prop :=
  s.wire_in <+: t.wire_in ∧ s.wire_out <+: t.wire_out ∧ s.diag_log <+: t.diag_log ∧ s.txs_log <+: t.txs_log ∧
  s.delivered <+: t.delivered

namespace HistoriesContinue

theorem refl (s : State) : HistoriesContinue s s := by simp [HistoriesContinue]

theorem trans {s t u : State} (h : HistoriesContinue s t) (h' : HistoriesContinue t u) : HistoriesContinue s u := by
  obtain ⟨hwi, hwo, hd, ht, hdl⟩ := h
  obtain ⟨hwi', hwo', hd', ht', hdl'⟩ := h'
  exact ⟨hwi.trans hwi', hwo.trans hwo', hd.trans hd', ht.trans ht', hdl.trans hdl'⟩

end HistoriesContinue

theorem raiseDrop_continues (c : DiagCode) (i : DiagInfo) (s : State) : HistoriesContinue s (raiseDrop c i s) := by
  simp [HistoriesContinue, raiseDrop_eq]

theorem raiseFatal_continues (c : FatalCause) (s : State) : HistoriesContinue s (raiseFatal c s) := by
  simp [HistoriesContinue, raiseFatal_eq]

theorem raiseTxErr_continues {c : TxStatus} {s t : State} (h : raiseTxErr c s = .next t) : HistoriesContinue s t := by
  obtain ⟨-, rfl⟩ := raiseTxErr_eq_next.mp h
  simp [HistoriesContinue]

theorem verifyFrame_continues {s t : State} (h : verifyFrame s = .next t) : HistoriesContinue s t := by
  obtain ⟨_, _, -, ⟨-, -, rfl⟩ | ⟨-, rfl⟩⟩ := verifyFrame_eq_next.mp h
  · exact .refl _
  · exact raiseDrop_continues _ _ s

theorem execByte_continues {d : Byte} {s t : State} (h : execByte d s = .next t) : HistoriesContinue s t := by
  rcases execByte_cases h with ⟨-, rfl⟩ | ⟨-, -, rfl⟩ | ⟨-, -, rfl⟩ | ⟨-, -, rfl⟩ | ⟨-, -, -, rfl⟩ | ⟨-, -, rfl⟩ |
    ⟨-, -, rfl⟩ | ⟨-, -, rfl⟩ | ⟨-, -, hv⟩
  · exact .refl _
  · exact .refl _
  · simp [HistoriesContinue]
  · exact .refl _
  · simp [HistoriesContinue]
  · exact .refl _
  · exact raiseDrop_continues _ _ s
  · exact .refl _
  · have hstore : HistoriesContinue s
        { s with rx_buf := memPut s.rx_buf s.rx_idx.toNat d, rx_idx := s.rx_len } := .refl s
    exact hstore.trans (verifyFrame_continues hv)

theorem execEvent_continues {w : EventWord} {s t : State} (hr : rxEvReady s = true)
    (h : exec (decodeEvent w) s = .next t) : HistoriesContinue s t := by
  rcases execEvent_cases hr h with ⟨d, -, hb⟩ | ⟨-, rfl⟩ | ⟨-, rfl⟩ | ⟨-, rfl⟩
  · exact execByte_continues hb
  · split
    · exact raiseDrop_continues _ _ s
    · exact .refl _
  · exact raiseFatal_continues _ s
  · exact raiseFatal_continues _ s

theorem rxTurn_continues {f : Bool} {s t : State} (h : rxTurn f s = .next t) : HistoriesContinue s t := by
  rcases rxTurn_eq_next.mp h with ⟨-, -, hd⟩ | ⟨-, -, rfl⟩ | ⟨-, hr⟩
  · obtain ⟨-, f, -, rfl⟩ := deliver_eq_next.mp hd
    simp [HistoriesContinue]
  · exact .refl _
  · rcases rxStep_eq_next.mp hr with ⟨w, ws, hready, -, hx⟩ | ⟨-, rfl⟩
    · have htake : HistoriesContinue s (takeEvent w ws s) := by simp [HistoriesContinue]
      exact htake.trans (execEvent_continues hready hx)
    · exact .refl _

theorem acceptStep_continues {s t : State} (hs : s.tx_state = .idle) (h : acceptStep s = .next t) :
    HistoriesContinue s t := by
  rcases acceptStep_eq_next.mp h with ⟨r, rs, -, hx⟩ | ⟨-, rfl⟩
  · have hready : cmdReady (takeRecord rs s) = true := by simp [cmdReady, hs]
    rcases execCommand_cases (r := r) hready with ⟨-, he⟩ | ⟨-, he⟩ | ⟨-, he⟩ | ⟨-, he⟩ <;>
      obtain rfl := next_eq_next.mp (he.symm.trans hx) <;> simp [HistoriesContinue]
  · exact .refl _

theorem loadImage_continues {img : List Byte} {s t : State} (h : loadImage img s = .next t) :
    HistoriesContinue s t := by
  obtain ⟨m, -, rfl⟩ := loadImage_eq_next.mp h
  exact .refl _

theorem encStep_continues {s t : State} (h : encStep s = .next t) : HistoriesContinue s t := by
  rcases encStep_eq_next.mp h with ⟨_, _, _, _, _, -, he⟩ | ⟨_, _, -, hl⟩
  · rcases encEncode_eq_next.mp he with ⟨-, he⟩ | ⟨-, -, he⟩ | ⟨-, -, hl⟩
    · exact raiseTxErr_continues he
    · exact raiseTxErr_continues he
    · exact loadImage_continues hl
  · exact loadImage_continues hl

theorem emitStep_continues {a : Ack} {s t : State} (h : emitStep a s = .next t) : HistoriesContinue s t := by
  obtain ⟨b, -, ha⟩ := emitStep_eq_next.mp h
  have hbyte : HistoriesContinue s { s with wire_out := s.wire_out ++ [(b, a)] } := by simp [HistoriesContinue]
  rcases afterAck_eq_next.mp ha with ⟨-, he⟩ | ⟨-, -, -, rfl⟩ | ⟨-, -, rfl⟩
  · exact hbyte.trans (raiseTxErr_continues he)
  · simp [HistoriesContinue]
  · exact hbyte

theorem txTurn_continues {a : Option Ack} {s t : State} (h : txTurn a s = .next t) : HistoriesContinue s t := by
  rcases txTurn_eq_next.mp h with ⟨hs, hacc⟩ | ⟨-, he⟩ | ⟨k, -, -, he⟩ | ⟨-, rfl⟩
  · exact acceptStep_continues hs hacc
  · exact encStep_continues he
  · exact emitStep_continues he
  · exact .refl _

theorem hostTurn_continues {op : HostOp} {s t : State} (h : hostTurn op s = .next t) : HistoriesContinue s t := by
  rcases hostTurn_eq_next.mp h with ⟨-, rfl⟩ | ⟨-, -, rfl⟩ | ⟨r, -, rfl⟩ | ⟨-, rfl⟩ | ⟨-, rfl⟩ <;>
    exact HistoriesContinue.refl _

theorem arbTurn_continues (c : Grantee) (s : State) : HistoriesContinue s (arbTurn c s) := by
  rcases arbTurn_cases c s with ⟨he, -⟩ | ⟨he, -⟩ | ⟨he, -⟩ <;> rw [he] <;> exact HistoriesContinue.refl _

/-- Settles O57: each turn that a step can take appends to the histories or leaves them, a reset among them. -/
theorem historiesOnlyGrow : Obligations.HistoriesOnlyGrow := by
  intro s t h
  show HistoriesContinue s t
  rcases step_eq_next.mp h with ⟨-, rfl⟩ | ⟨u, us, -, hu⟩
  · exact .refl _
  · have hsched : HistoriesContinue s { s with sched := us } := .refl s
    rcases hu with ⟨op, -, hx⟩ | ⟨-, -, rfl⟩ | ⟨f, -, -, hx⟩ | ⟨a, -, -, hx⟩ | ⟨c, -, -, rfl⟩
    · exact hsched.trans (hostTurn_continues hx)
    · exact .refl _
    · exact hsched.trans (rxTurn_continues hx)
    · exact hsched.trans (txTurn_continues hx)
    · exact hsched.trans (arbTurn_continues c _)

/-! ### The ports -/

/-- Settles O58, by which of the two paths have ended. -/
theorem connStateByPaths : Obligations.ConnStateByPaths := by
  intro s
  have hreset : (outputs State.reset).conn_state = 0#2 := rfl
  simp only [hreset]
  by_cases hr : s.rx_state = .fatal <;> by_cases ht : s.tx_state = .closed <;>
    simp [outputs, connState, connStateCode, hr, ht]

theorem rxEvReady_iff {s : State} :
    rxEvReady s = true ↔ s.rx_state = .hunt ∨ s.rx_state = .seen1 ∨ s.rx_state = .len ∨ s.rx_state = .body := by
  cases hs : s.rx_state <;> simp [rxEvReady, hs]

@[simp] theorem foValid_iff {s : State} : foValid s = true ↔ s.rx_state = .out := by simp [foValid]

@[simp] theorem cmdReady_iff {s : State} : cmdReady s = true ↔ s.tx_state = .idle := by simp [cmdReady]

@[simp] theorem txValid_iff {s : State} : txValid s = true ↔ s.tx_state = .emit := by simp [txValid]

@[simp] theorem rxReq_iff {s : State} : rxReq s = true ↔ s.rx_state = .acq := by simp [rxReq]

@[simp] theorem txReq_iff {s : State} : txReq s = true ↔ s.tx_state = .acq := by simp [txReq]

/-- Settles O59: each output by its own equivalence. -/
theorem handshakeOutputs : Obligations.HandshakeOutputs := by
  refine fun s => ⟨rxEvReady_iff, foValid_iff, cmdReady_iff, txValid_iff, fun hs => ?_, rxReq_iff, txReq_iff⟩
  exact if_pos (txValid_iff.mpr hs)

end Sys2Proof.Machine
end

section
/-! The memory rules of 20_memory.md: the canonical form of an array (R39), the arbiter's turn (R53 to R55), and what RX and
TX leave of each other's state, from which the atomicity of frames on the link follows (R57). -/

namespace Sys2Proof.Machine

/-! ### Arrays in canonical form -/

theorem memRises_cons {lo b : Nat} {x : Byte} {m : Memory} :
    memRises lo ((b, x) :: m) = true ↔ lo ≤ b ∧ memRises (b + 1) m = true := by
  simp [memRises]

theorem memRead_cons_same (b : Nat) (x : Byte) (m : Memory) : memRead ((b, x) :: m) b = some x := if_pos rfl

theorem memRead_cons_other {a b : Nat} (x : Byte) (m : Memory) (h : a ≠ b) :
    memRead ((b, x) :: m) a = memRead m a := if_neg h

/-- A written index is no smaller than the bound the indices rise from. -/
theorem le_of_memRead {m : Memory} {lo a : Nat} {v : Byte} (h : memRises lo m = true) (hv : memRead m a = some v) :
    lo ≤ a := by
  by_contra hlt
  rw [memRead_below h (by omega)] at hv
  cases hv

/-- The first index of a rising array is the least one written, so the contents of two such arrays determine their first
cells, and then those of their tails. -/
theorem eq_of_memRead_eq {m m' : Memory} {lo lo' : Nat} (h : memRises lo m = true) (h' : memRises lo' m' = true)
    (heq : ∀ a, memRead m a = memRead m' a) : m = m' := by
  induction m generalizing lo m' lo' with
  | nil =>
    cases m' with
    | nil => rfl
    | cons q m' =>
      obtain ⟨c, y⟩ := q
      have hread := heq c
      rw [memRead_cons_same] at hread
      cases hread
  | cons p m ih =>
    obtain ⟨b, x⟩ := p
    cases m' with
    | nil =>
      have hread := heq b
      rw [memRead_cons_same] at hread
      cases hread
    | cons q m' =>
      obtain ⟨c, y⟩ := q
      obtain ⟨-, hm⟩ := memRises_cons.mp h
      obtain ⟨-, hm'⟩ := memRises_cons.mp h'
      have hcb : c ≤ b :=
        le_of_memRead (memRises_cons.mpr ⟨le_refl c, hm'⟩) ((heq b).symm.trans (memRead_cons_same b x m))
      have hbc : b ≤ c :=
        le_of_memRead (memRises_cons.mpr ⟨le_refl b, hm⟩) ((heq c).trans (memRead_cons_same c y m'))
      obtain rfl : b = c := le_antisymm hbc hcb
      obtain rfl : x = y := by simpa [memRead_cons_same] using heq b
      have htail : ∀ a, memRead m a = memRead m' a := fun a => by
        by_cases ha : a = b
        · rw [memRead_below hm (by omega), memRead_below hm' (by omega)]
        · rw [← memRead_cons_other x m ha, ← memRead_cons_other x m' ha, heq]
      rw [ih hm hm' htail]

/-- Settles O60, by induction on the first array. -/
theorem equalContentsEqualArrays : Obligations.EqualContentsEqualArrays :=
  fun _ _ h h' heq => eq_of_memRead_eq h h' heq

/-! ### The arbiter's turn -/

@[simp] theorem grantRxEnabled_iff {s : State} : grantRxEnabled s = true ↔ s.owner = .none ∧ s.rx_state = .acq := by
  simp [grantRxEnabled]

@[simp] theorem grantTxEnabled_iff {s : State} : grantTxEnabled s = true ↔ s.owner = .none ∧ s.tx_state = .acq := by
  simp [grantTxEnabled]

/-- RX's request is granted where TX makes none or RX is chosen (R53, R55). -/
theorem arbTurn_eq_grantRx {c : Grantee} {s : State} (ho : s.owner = .none) (hrx : s.rx_state = .acq)
    (h : s.tx_state ≠ .acq ∨ c = .rx) : arbTurn c s = grantRx s := by
  refine if_pos ?_
  rcases h with h | rfl
  · simp [ho, hrx, grantTxEnabled, txReq, h]
  · simp [ho, hrx]

/-- TX's request is granted where RX makes none or TX is chosen (R54, R55). -/
theorem arbTurn_eq_grantTx {c : Grantee} {s : State} (ho : s.owner = .none) (htx : s.tx_state = .acq)
    (h : s.rx_state ≠ .acq ∨ c = .tx) : arbTurn c s = grantTx s := by
  have ht : grantTxEnabled s = true := grantTxEnabled_iff.mpr ⟨ho, htx⟩
  refine (if_neg ?_).trans (if_pos ht)
  rcases h with h | rfl
  · simp [grantRxEnabled, rxReq, h]
  · simp [ht]

/-- No grant while the link is held or nobody requests it. -/
theorem arbTurn_eq_self {c : Grantee} {s : State} (h : s.owner ≠ .none ∨ (s.rx_state ≠ .acq ∧ s.tx_state ≠ .acq)) :
    arbTurn c s = s := by
  rcases arbTurn_cases c s with ⟨-, ho, hrx⟩ | ⟨-, ho, htx⟩ | ⟨hself, -⟩
  · exact absurd hrx (h.resolve_left (not_not_intro ho)).1
  · exact absurd htx (h.resolve_left (not_not_intro ho)).2
  · exact hself

theorem step_arb {c : Grantee} {s : State} {us : List Turn} (hrst : s.rst = false) (hs : s.sched = .arb c :: us) :
    step s = .next (arbTurn c { s with sched := us }) := by
  rw [step_of_sched hs]
  simp [takeTurn, hrst]

/-- Settles O25. -/
theorem grantsTakeTheLink : Obligations.GrantsTakeTheLink := by
  refine fun s c us hrst hs ho => ⟨fun hrx h => ?_, fun htx h => ?_⟩ <;> rw [step_arb hrst hs]
  · rw [arbTurn_eq_grantRx (s := { s with sched := us }) ho hrx h]
    rfl
  · rw [arbTurn_eq_grantTx (s := { s with sched := us }) ho htx h]
    rfl

/-- Settles O26: each choice meets the condition of its grant. -/
theorem bothGrantsAdmitted : Obligations.BothGrantsAdmitted := fun s us hrst ho hrx htx =>
  ⟨(grantsTakeTheLink { s with sched := .arb .rx :: us } .rx us hrst rfl ho).1 hrx (.inr rfl),
    (grantsTakeTheLink { s with sched := .arb .tx :: us } .tx us hrst rfl ho).2 htx (.inr rfl)⟩

/-- Settles O27. -/
theorem noGrantOtherwise : Obligations.NoGrantOtherwise := by
  intro s c us hrst hs h
  rw [step_arb hrst hs, arbTurn_eq_self (s := { s with sched := us }) h]

/-! ### What RX leaves of TX's state -/

/-- The registers, the port and the histories that only TX writes (60_exceptions.md R136). -/
structure TxPart where
  tx_state : TxState
  tx_cmd : CmdRecord
  tx_buf : Memory
  tx_cnt : BitVec 9
  tx_idx : BitVec 9
  cmd : List CmdRecord
  wire_out : List (Byte × Ack)
  txs_log : List TxStatus

/-- TX's part of a state. -/
def txPart (s : State) : TxPart :=
  ⟨s.tx_state, s.tx_cmd, s.tx_buf, s.tx_cnt, s.tx_idx, s.cmd, s.wire_out, s.txs_log⟩

@[simp] theorem txPart_raiseDrop (c : DiagCode) (i : DiagInfo) (s : State) : txPart (raiseDrop c i s) = txPart s := by
  rw [raiseDrop_eq]; rfl

@[simp] theorem txPart_raiseFatal (c : FatalCause) (s : State) : txPart (raiseFatal c s) = txPart s := by
  rw [raiseFatal_eq]; rfl

theorem verifyFrame_txPart {s t : State} (h : verifyFrame s = .next t) : txPart t = txPart s := by
  obtain ⟨_, _, -, ⟨-, -, rfl⟩ | ⟨-, rfl⟩⟩ := verifyFrame_eq_next.mp h
  · rfl
  · exact txPart_raiseDrop _ _ s

theorem execByte_txPart {d : Byte} {s t : State} (h : execByte d s = .next t) : txPart t = txPart s := by
  rcases execByte_cases h with ⟨-, rfl⟩ | ⟨-, -, rfl⟩ | ⟨-, -, rfl⟩ | ⟨-, -, rfl⟩ | ⟨-, -, -, rfl⟩ | ⟨-, -, rfl⟩ |
    ⟨-, -, rfl⟩ | ⟨-, -, rfl⟩ | ⟨-, -, hv⟩
  · rfl
  · rfl
  · rfl
  · rfl
  · rfl
  · rfl
  · exact txPart_raiseDrop _ _ s
  · rfl
  · exact (verifyFrame_txPart hv).trans rfl

theorem execEvent_txPart {w : EventWord} {s t : State} (hr : rxEvReady s = true)
    (h : exec (decodeEvent w) s = .next t) : txPart t = txPart s := by
  rcases execEvent_cases hr h with ⟨d, -, hb⟩ | ⟨-, rfl⟩ | ⟨-, rfl⟩ | ⟨-, rfl⟩
  · exact execByte_txPart hb
  · split
    · exact txPart_raiseDrop _ _ s
    · rfl
  · exact txPart_raiseFatal _ s
  · exact txPart_raiseFatal _ s

/-- RX's turn writes nothing of TX's. -/
theorem rxTurn_txPart {f : Bool} {s t : State} (h : rxTurn f s = .next t) : txPart t = txPart s := by
  rcases rxTurn_eq_next.mp h with ⟨-, -, hd⟩ | ⟨-, -, rfl⟩ | ⟨-, hr⟩
  · obtain ⟨-, _, -, rfl⟩ := deliver_eq_next.mp hd
    rfl
  · rfl
  · rcases rxStep_eq_next.mp hr with ⟨w, ws, hready, -, hx⟩ | ⟨-, rfl⟩
    · exact execEvent_txPart (s := takeEvent w ws s) hready hx
    · rfl

/-! ### What TX leaves of RX's state -/

/-- The registers, the port and the histories that only RX writes (60_exceptions.md R136). -/
structure RxPart where
  rx_state : RxState
  rx_len : Byte
  rx_idx : Byte
  rx_buf : Memory
  rx_fatal : RxFatal
  rx_ev : List EventWord
  wire_in : List EventWord
  diag_log : List (DiagCode × DiagInfo)
  delivered : List FoFrame

/-- RX's part of a state. -/
def rxPart (s : State) : RxPart :=
  ⟨s.rx_state, s.rx_len, s.rx_idx, s.rx_buf, s.rx_fatal, s.rx_ev, s.wire_in, s.diag_log, s.delivered⟩

theorem raiseTxErr_rxPart {c : TxStatus} {s t : State} (h : raiseTxErr c s = .next t) : rxPart t = rxPart s := by
  obtain ⟨-, rfl⟩ := raiseTxErr_eq_next.mp h
  rfl

theorem loadImage_rxPart {img : List Byte} {s t : State} (h : loadImage img s = .next t) : rxPart t = rxPart s := by
  obtain ⟨_, -, rfl⟩ := loadImage_eq_next.mp h
  rfl

/-- Accepting a record writes nothing of RX's and emits nothing. -/
theorem acceptStep_keeps {s t : State} (hs : s.tx_state = .idle) (h : acceptStep s = .next t) :
    rxPart t = rxPart s ∧ t.wire_out = s.wire_out := by
  rcases acceptStep_eq_next.mp h with ⟨r, rs, -, hx⟩ | ⟨-, rfl⟩
  · have hready : cmdReady (takeRecord rs s) = true := cmdReady_iff.mpr hs
    rcases execCommand_cases (r := r) hready with ⟨-, he⟩ | ⟨-, he⟩ | ⟨-, he⟩ | ⟨-, he⟩ <;>
      obtain rfl := next_eq_next.mp (he.symm.trans hx) <;> exact ⟨rfl, rfl⟩
  · exact ⟨rfl, rfl⟩

theorem encStep_rxPart {s t : State} (h : encStep s = .next t) : rxPart t = rxPart s := by
  rcases encStep_eq_next.mp h with ⟨_, _, _, _, _, -, he⟩ | ⟨_, _, -, hl⟩
  · rcases encEncode_eq_next.mp he with ⟨-, he⟩ | ⟨-, -, he⟩ | ⟨-, -, hl⟩
    · exact raiseTxErr_rxPart he
    · exact raiseTxErr_rxPart he
    · exact loadImage_rxPart hl
  · exact loadImage_rxPart hl

theorem emitStep_rxPart {a : Ack} {s t : State} (h : emitStep a s = .next t) : rxPart t = rxPart s := by
  obtain ⟨b, -, ha⟩ := emitStep_eq_next.mp h
  rcases afterAck_eq_next.mp ha with ⟨-, he⟩ | ⟨-, -, -, rfl⟩ | ⟨-, -, rfl⟩
  · exact (raiseTxErr_rxPart he).trans rfl
  · rfl
  · rfl

/-- TX's turn writes nothing of RX's. -/
theorem txTurn_rxPart {a : Option Ack} {s t : State} (h : txTurn a s = .next t) : rxPart t = rxPart s := by
  rcases txTurn_eq_next.mp h with ⟨hs, hacc⟩ | ⟨-, he⟩ | ⟨_, -, -, he⟩ | ⟨-, rfl⟩
  · exact (acceptStep_keeps hs hacc).1
  · exact encStep_rxPart he
  · exact emitStep_rxPart he
  · rfl

/-! ### The wire histories, step by step -/

theorem arbTurn_wires (c : Grantee) (s : State) :
    (arbTurn c s).wire_in = s.wire_in ∧ (arbTurn c s).wire_out = s.wire_out := by
  rcases arbTurn_cases c s with ⟨he, -⟩ | ⟨he, -⟩ | ⟨he, -⟩ <;> simp [he]

theorem hostTurn_wires {op : HostOp} {s t : State} (h : hostTurn op s = .next t) :
    t.wire_in = s.wire_in ∧ t.wire_out = s.wire_out := by
  rcases hostTurn_eq_next.mp h with ⟨-, rfl⟩ | ⟨-, -, rfl⟩ | ⟨_, -, rfl⟩ | ⟨-, rfl⟩ | ⟨-, rfl⟩ <;> exact ⟨rfl, rfl⟩

/-- TX emits nothing in a state in which it does not hold the link. -/
theorem txTurn_wire_out {a : Option Ack} {s t : State} (hs : txHolds s.tx_state = false) (h : txTurn a s = .next t) :
    t.wire_out = s.wire_out := by
  rcases txTurn_eq_next.mp h with ⟨hidle, hacc⟩ | ⟨henc, -⟩ | ⟨_, hemit, -⟩ | ⟨-, rfl⟩
  · exact (acceptStep_keeps hidle hacc).2
  · simp [henc, txHolds] at hs
  · simp [hemit, txHolds] at hs
  · rfl

/-- RX consumes an event only where it is ready for one. -/
theorem rxTurn_wire_in {f : Bool} {s t : State} (h : rxTurn f s = .next t) (hne : t.wire_in ≠ s.wire_in) :
    rxEvReady s = true := by
  rcases rxTurn_eq_next.mp h with ⟨-, -, hd⟩ | ⟨-, -, rfl⟩ | ⟨-, hr⟩
  · obtain ⟨-, _, -, rfl⟩ := deliver_eq_next.mp hd
    exact absurd rfl hne
  · exact absurd rfl hne
  · rcases rxStep_eq_next.mp hr with ⟨_, _, hready, -⟩ | ⟨-, rfl⟩
    · exact hready
    · exact absurd rfl hne

/-- A step emits a byte only where TX holds the link. -/
theorem step_wire_out {s t : State} (hs : txHolds s.tx_state = false) (h : step s = .next t) :
    t.wire_out = s.wire_out := by
  rcases step_eq_next.mp h with ⟨-, rfl⟩ | ⟨u, us, -, hu⟩
  · rfl
  · rcases hu with ⟨op, -, hx⟩ | ⟨-, -, rfl⟩ | ⟨f, -, -, hx⟩ | ⟨a, -, -, hx⟩ | ⟨c, -, -, rfl⟩
    · exact (hostTurn_wires hx).2
    · rfl
    · exact congrArg TxPart.wire_out (rxTurn_txPart hx)
    · exact txTurn_wire_out (s := { s with sched := us }) hs hx
    · exact (arbTurn_wires c _).2

/-- A step consumes an event only where RX is ready for one. -/
theorem step_wire_in {s t : State} (h : step s = .next t) (hne : t.wire_in ≠ s.wire_in) : rxEvReady s = true := by
  rcases step_eq_next.mp h with ⟨-, rfl⟩ | ⟨u, us, -, hu⟩
  · exact absurd rfl hne
  · rcases hu with ⟨op, -, hx⟩ | ⟨-, -, rfl⟩ | ⟨f, -, -, hx⟩ | ⟨a, -, -, hx⟩ | ⟨c, -, -, rfl⟩
    · exact absurd (hostTurn_wires hx).1 hne
    · exact absurd rfl hne
    · exact rxTurn_wire_in (s := { s with sched := us }) hx hne
    · exact absurd (congrArg RxPart.wire_in (txTurn_rxPart hx)) hne
    · exact absurd (arbTurn_wires c _).1 hne

/-! ### Frames on the link -/

/-- While RX owns the link TX does not hold it, and the other way round: the owner is one agent (R31). -/
theorem LinkSafe.not_txHolds {o : Owner} {rx : RxState} {tx : TxState} (h : LinkSafe o rx tx) (ho : o = .rx) :
    txHolds tx = false := by
  rw [Bool.eq_false_iff, ne_eq, ← h.2, ho]
  exact nofun

theorem LinkSafe.not_rxHolds {o : Owner} {rx : RxState} {tx : TxState} (h : LinkSafe o rx tx) (ho : o = .tx) :
    rxHolds rx = false := by
  rw [Bool.eq_false_iff, ne_eq, ← h.1, ho]
  exact nofun

/-- Where RX takes events and does not hold the link, it hunts. -/
theorem hunt_of_ready {s : State} (hready : rxEvReady s = true) (hs : rxHolds s.rx_state = false) :
    s.rx_state = .hunt := by
  rcases rxEvReady_iff.mp hready with h | h
  · exact h
  · rw [rxHolds_iff.mpr h] at hs
    cases hs

/-- Settles O54: the agent that does not own the link holds no state in which it emits, or reads on inside a frame. -/
theorem framesAreAtomicOnTheLink : Obligations.FramesAreAtomicOnTheLink := fun _ _ hinv hstep =>
  ⟨fun ho => step_wire_out (hinv.link.not_txHolds ho) hstep,
    fun ho hne => hunt_of_ready (step_wire_in hstep hne) (hinv.link.not_rxHolds ho)⟩

end Sys2Proof.Machine
end

section
/-! Decoding and encoding (30_encoding.md sections 2, 3 and 6): the three tests of R75 as predicates on a record, what the
decoder answers by them, the records R74 calls illegal as those that pass none, and the round trips in both directions. -/

namespace Sys2Proof

/-! ### The event word -/

/-- The decoder reads the status and the data byte a word was built from (R67, R68). -/
theorem decodeEvent_eventWord (st : BitVec 2) (d : Byte) :
    decodeEvent (eventWord st d) =
      if st = 0#2 then .byte d else if st = 1#2 then .timeout else if st = 2#2 then .error else .closed := by
  simp only [decodeEvent, evStatus_eventWord, evData_eventWord]

/-- Settles O1: an event word is built from its status and its data byte by concatenation. -/
theorem eventWordsDecodeByStatus : Obligations.EventWordsDecodeByStatus := by
  intro st d
  have hdec : decodeEvent (st ++ d) = _ := decodeEvent_eventWord st d
  rw [hdec]
  refine ⟨?_, ?_, ?_, ?_⟩ <;> rintro rfl <;> rfl

/-! ### The tests of R75 and the decoder's answers -/

/-- R75's first test: kind 00, reserved bits 0, and the header and N payload bytes as data (R71). -/
def CmdRecord.PassesEncode (r : CmdRecord) : Prop :=
  descKind r.desc = 0#2 ∧ descEncReserved r.desc = 0#5 ∧ r.data.length = 8 + (descN r.desc).toNat

/-- R75's second test: kind 01, reserved bits 0, and M bytes as data (R72). -/
def CmdRecord.PassesRaw (r : CmdRecord) : Prop :=
  descKind r.desc = 1#2 ∧ descRawReserved r.desc = 0#22 ∧ r.data.length = (descM r.desc).toNat

/-- R75's third test: the one `CLOSE` record (R73). -/
def CmdRecord.PassesClose (r : CmdRecord) : Prop := r.desc = closeDesc ∧ r.data = []

theorem descKind_closeDesc : descKind closeDesc = 2#2 := by decide

/-- The kind of a record that passes the third test is neither of those the first two ask for. -/
theorem CmdRecord.PassesClose.descKind_eq {r : CmdRecord} (h : r.PassesClose) : descKind r.desc = 2#2 := by
  rw [h.1, descKind_closeDesc]

/-- A record of kind 00 with its reserved bits 0 decodes to its descriptor's fields, the header split off its data. -/
theorem decodeCommand_of_header {r : CmdRecord} {hdr : HdrBytes} {pay : List Byte} (hk : descKind r.desc = 0#2)
    (hr : descEncReserved r.desc = 0#5) (hd : r.data = hdr.toList ++ pay) (hl : pay.length = (descN r.desc).toNat) :
    decodeCommand r = .encode (descSerr r.desc) (descN r.desc) (descMsgop r.desc) hdr pay := by
  have hlen : r.data.length = 8 + (descN r.desc).toNat := by rw [hd, List.length_append, hdr.length_toList, hl]
  obtain ⟨d, l⟩ := r
  subst hd
  exact if_pos ⟨hk, hr, hlen⟩

theorem decodeCommand_of_passesEncode {r : CmdRecord} (h : r.PassesEncode) :
    ∃ hdr pay, r.data = hdr.toList ++ pay ∧
      decodeCommand r = .encode (descSerr r.desc) (descN r.desc) (descMsgop r.desc) hdr pay := by
  rcases decodeCommand_cases r with ⟨hdr, pay, -, -, hd, -, he⟩ | ⟨hk, -⟩ | ⟨hc, hd, -⟩ | ⟨hne, -⟩
  · exact ⟨hdr, pay, hd, he⟩
  · exact absurd (h.1.symm.trans hk) (by decide)
  · exact absurd (h.1.symm.trans (CmdRecord.PassesClose.descKind_eq ⟨hc, hd⟩)) (by decide)
  · exact absurd h hne

theorem decodeCommand_of_passesRaw {r : CmdRecord} (h : r.PassesRaw) :
    decodeCommand r = .raw (descM r.desc) r.data := by
  have hne : ¬r.PassesEncode := fun he => absurd (he.1.symm.trans h.1) (by decide)
  exact (if_neg hne).trans (if_pos h)

theorem decodeCommand_of_passesClose {r : CmdRecord} (h : r.PassesClose) : decodeCommand r = .close := by
  have hne : ¬r.PassesEncode := fun he => absurd (he.1.symm.trans h.descKind_eq) (by decide)
  have hnr : ¬r.PassesRaw := fun hr => absurd (hr.1.symm.trans h.descKind_eq) (by decide)
  exact (if_neg hne).trans ((if_neg hnr).trans (if_pos h))

/-- The answer ILLEGAL is the one left over. -/
theorem decodeCommand_eq_illegal_iff {r : CmdRecord} :
    decodeCommand r = .illegal r ↔ ¬r.PassesEncode ∧ ¬r.PassesRaw ∧ ¬r.PassesClose := by
  constructor
  · intro h
    refine ⟨fun he => ?_, fun hr => ?_, fun hc => ?_⟩
    · obtain ⟨_, _, -, hdec⟩ := decodeCommand_of_passesEncode he
      cases h.symm.trans hdec
    · cases h.symm.trans (decodeCommand_of_passesRaw hr)
    · cases h.symm.trans (decodeCommand_of_passesClose hc)
  · rintro ⟨hne, hnr, hnc⟩
    exact (if_neg hne).trans ((if_neg hnr).trans (if_neg hnc))

/-- Settles O2: the bit ranges of the statement are the descriptor's fields, and its cases the three tests. -/
theorem commandDecoderFollowsItsTests : Obligations.CommandDecoderFollowsItsTests := by
  intro r isEncode isRaw isClose
  refine ⟨fun he => ?_, fun _ hr => decodeCommand_of_passesRaw hr, fun _ _ hc => decodeCommand_of_passesClose hc,
    fun hne hnr hnc => decodeCommand_eq_illegal_iff.mpr ⟨hne, hnr, hnc⟩⟩
  obtain ⟨⟨h0, h1, h2, h3, h4, h5, h6, h7⟩, pay, hd, hdec⟩ := decodeCommand_of_passesEncode he
  exact ⟨h0, h1, h2, h3, h4, h5, h6, h7, pay, hd, hdec⟩

/-! ### The illegal records -/

/-- R74 lists for each kind how its one test of R75 fails; for kind 11 there is none to pass. -/
theorem CmdRecord.isIllegal_iff {r : CmdRecord} :
    r.isIllegal = true ↔ ¬r.PassesEncode ∧ ¬r.PassesRaw ∧ ¬r.PassesClose := by
  have hkinds : ∀ k : BitVec 2, k = 0#2 ∨ k = 1#2 ∨ k = 2#2 ∨ k = 3#2 := by decide
  have hclose : descKind r.desc ≠ 2#2 → ¬r.PassesClose := fun hk hc => hk hc.descKind_eq
  simp only [CmdRecord.isIllegal, CmdRecord.PassesEncode, CmdRecord.PassesRaw]
  rcases hkinds (descKind r.desc) with hk | hk | hk | hk
  · have hc := hclose (by rw [hk]; decide)
    simp [hk, hc, imp_iff_not_or]
  · have hc := hclose (by rw [hk]; decide)
    simp [hk, hc, imp_iff_not_or]
  · simp [hk, CmdRecord.PassesClose, imp_iff_not_or]
  · have hc := hclose (by rw [hk]; decide)
    simp [hk, hc]

/-- Settles O6: both sides say that the record passes none of R75's tests. -/
theorem illegalRecordsExactly : Obligations.IllegalRecordsExactly := fun _ =>
  decodeCommand_eq_illegal_iff.trans CmdRecord.isIllegal_iff.symm

/-- What the command decoder answers is well formed. -/
theorem wellFormed_decodeCommand (r : CmdRecord) : (decodeCommand r).wellFormed = true := by
  rcases decodeCommand_cases r with ⟨_, _, -, -, -, hl, he⟩ | ⟨-, -, hl, he⟩ | ⟨-, -, he⟩ | ⟨-, -, -, he⟩
  · rw [he]; exact beq_iff_eq.mpr hl
  · rw [he]; exact beq_iff_eq.mpr hl
  · rw [he]; rfl
  · have hill : r.isIllegal = true := (illegalRecordsExactly r).mp he
    rw [he]; exact hill

/-- Every answer of the event decoder is well formed: it has no count. -/
theorem wellFormed_decodeEvent (w : EventWord) : (decodeEvent w).wellFormed = true := by
  rcases decodeEvent_cases w with ⟨-, he⟩ | ⟨-, he⟩ | ⟨-, he⟩ | ⟨-, he⟩ <;> rw [he] <;> rfl

/-- Settles O5, for each port by its decoder. -/
theorem decodedIsWellFormed : Obligations.DecodedIsWellFormed
  | .ev w => wellFormed_decodeEvent w
  | .cmd r => wellFormed_decodeCommand r

/-! ### The round trips -/

/-- A record is its descriptor and its data. -/
theorem CmdRecord.eq_of_fields_eq {r r' : CmdRecord} (hdesc : r.desc = r'.desc) (hdata : r.data = r'.data) : r = r' := by
  cases r
  cases r'
  exact (CmdRecord.mk.injEq ..).mpr ⟨hdesc, hdata⟩

/-- Built again from the fields of its own descriptor, a record is the same record. -/
theorem encodeRecord_eq_self {r : CmdRecord} {hdr : HdrBytes} {pay : List Byte} (hk : descKind r.desc = 0#2)
    (hr : descEncReserved r.desc = 0#5) (hd : r.data = hdr.toList ++ pay) :
    encodeRecord (descSerr r.desc) (descN r.desc) (descMsgop r.desc) hdr pay = r :=
  CmdRecord.eq_of_fields_eq (encodeRecord_of_fields hk hr hdr pay) hd.symm

theorem rawRecord_eq_self {r : CmdRecord} (hk : descKind r.desc = 1#2) (hr : descRawReserved r.desc = 0#22) :
    rawRecord (descM r.desc) r.data = r :=
  CmdRecord.eq_of_fields_eq (rawRecord_of_fields hk hr r.data) rfl

/-- The `CLOSE` record is the only one that passes the third test. -/
theorem closeRecord_eq_self {r : CmdRecord} (h : r.PassesClose) : closeRecord = r :=
  CmdRecord.eq_of_fields_eq h.1.symm h.2.symm

/-- Settles O4, for each answer of the decoder. -/
theorem encodeOfDecodedRecord : Obligations.EncodeOfDecodedRecord := by
  intro r
  rcases decodeCommand_cases r with ⟨_, _, hk, hr, hd, -, he⟩ | ⟨hk, hr, -, he⟩ | ⟨hc, hd, he⟩ | ⟨-, -, -, he⟩ <;>
    rw [he]
  · exact congrArg Input.cmd (encodeRecord_eq_self hk hr hd)
  · exact congrArg Input.cmd (rawRecord_eq_self hk hr)
  · exact congrArg Input.cmd (closeRecord_eq_self ⟨hc, hd⟩)
  · rfl

/-- The decoder reads back the operands of an `ENCODE` whose count is its payload's length. -/
theorem decodeCommand_encodeRecord (serr : Bool) {n : Byte} (op : U16) (hdr : HdrBytes) {pay : List Byte}
    (hl : pay.length = n.toNat) : decodeCommand (encodeRecord serr n op hdr pay) = .encode serr n op hdr pay := by
  obtain ⟨hk, hs, hr, hn, ho⟩ := encodeRecord_fields serr n op hdr pay
  have hdec := decodeCommand_of_header (r := encodeRecord serr n op hdr pay) hk hr rfl (by rw [hn, hl])
  rwa [hs, hn, ho] at hdec

/-- The decoder reads back a `RAW` whose count is its bytes' length. -/
theorem decodeCommand_rawRecord {m : Byte} {bytes : List Byte} (hl : bytes.length = m.toNat) :
    decodeCommand (rawRecord m bytes) = .raw m bytes := by
  obtain ⟨hk, hr, hm⟩ := rawRecord_fields m bytes
  have hdec := decodeCommand_of_passesRaw (r := rawRecord m bytes) ⟨hk, hr, by rw [hm]; exact hl⟩
  rwa [hm] at hdec

/-- Settles O3, for each operation: the events by their status, a command by the test its record passes. -/
theorem decodeOfEncode : Obligations.DecodeOfEncode := by
  intro i hwf
  cases i with
  | byte d => exact decodeEvent_eventWord 0#2 d
  | timeout => exact decodeEvent_eventWord 1#2 0#8
  | error => exact decodeEvent_eventWord 2#2 0#8
  | closed => exact decodeEvent_eventWord 3#2 0#8
  | encode serr n op hdr pay => exact decodeCommand_encodeRecord serr op hdr (beq_iff_eq.mp hwf)
  | raw m bytes => exact decodeCommand_rawRecord (beq_iff_eq.mp hwf)
  | close => exact decodeCommand_of_passesClose ⟨rfl, rfl⟩
  | illegal r => exact (illegalRecordsExactly r).mpr hwf

end Sys2Proof
end

section
/-! The checksum generator and the verifier (40_checksum.md R83 to R85): the sums the verifier finds over what the generator
wrote. -/

namespace Sys2Proof.Machine

/-- The generator leaves the body's bytes where they are. -/
theorem withChecksum_getElem?_of_lt {body : List Byte} {i : Nat} (h : i < body.length) :
    (withChecksum body)[i]? = body[i]? :=
  List.getElem?_append_left h

/-- The high byte of the checksum stands first after the body (R84). -/
theorem withChecksum_getElem?_length (body : List Byte) :
    (withChecksum body)[body.length]? = some (hi8 (Config.checksum16 body)) := by
  simp [withChecksum]

/-- The low byte of the checksum stands last (R84). -/
theorem withChecksum_getElem?_length_succ (body : List Byte) :
    (withChecksum body)[body.length + 1]? = some (lo8 (Config.checksum16 body)) := by
  simp [withChecksum]

section
variable {rd : Nat → Option Byte} {L : Byte} {body : List Byte}

/-- Where a body with its checksum stands in the buffer, the received sum and the computed one are the body's checksum. -/
theorem frameSums_withChecksum (hL : L.toNat = body.length + 2)
    (h : ∀ i, i < L.toNat → rd i = (withChecksum body)[i]?) :
    frameSums rd L = some (Config.checksum16 body, Config.checksum16 body) := by
  have hbody : readRange rd 0 body.length = some body :=
    readRange_eq_some.mpr ⟨rfl, fun i hi => by
      rw [Nat.zero_add, h i (by omega), withChecksum_getElem?_of_lt hi]⟩
  have hhi : rd body.length = some (hi8 (Config.checksum16 body)) :=
    (h _ (by omega)).trans (withChecksum_getElem?_length body)
  have hlo : rd (body.length + 1) = some (lo8 (Config.checksum16 body)) :=
    (h _ (by omega)).trans (withChecksum_getElem?_length_succ body)
  have hreceived : readBe16 rd body.length = some (Config.checksum16 body) :=
    readBe16_eq_some.mpr ⟨_, _, hhi, hlo, (be16_hi8_lo8 _).symm⟩
  rw [frameSums, hL, Nat.add_sub_cancel, hbody, hreceived]

/-- The verifier accepts exactly where the two sums are equal. -/
theorem ckOk_eq_true_iff : ckOk rd L = some true ↔ ∃ v, frameSums rd L = some (v, v) := by
  simp [ckOk]

end

/-- Settles O37: both sums are the checksum of the body, whatever its value. -/
theorem generatedChecksumVerifies : Obligations.GeneratedChecksumVerifies := fun _ _ _ hL h =>
  ckOk_eq_true_iff.mpr ⟨_, frameSums_withChecksum hL h⟩

end Sys2Proof.Machine
end

section
/-! The scanner's events (41_sync_scanner.md sections 1 to 4): what each operation of RX does in the states in which RX reads,
where an input waits at its port, and how a turn of RX runs the word at its port. -/

namespace Sys2Proof.Machine

/-! ### A BYTE in HUNT and in SEEN1 -/

theorem execByte_hunt {d : Byte} {s : State} (hs : s.rx_state = .hunt) : execByte d s = huntByte d s := by
  simp only [execByte, hs]

theorem execByte_seen1 {d : Byte} {s : State} (hs : s.rx_state = .seen1) : execByte d s = seen1Byte d s := by
  simp only [execByte, hs]

/-- Everything a byte can do in HUNT: it asks for the link, or it is discarded with a record (R93). -/
theorem huntByte_eq (d : Byte) (s : State) :
    huntByte d s = .next (if d = Config.marker then { s with rx_state := .acq } else diag .unsyncedByte (.byte d) s) := by
  by_cases hd : d = Config.marker
  · rw [huntByte, if_pos hd, if_pos hd]
  · rw [huntByte, if_neg hd, if_neg hd]

/-- Settles O8. -/
theorem byteInHunt : Obligations.ByteInHunt := fun d s hs =>
  calc exec (.byte d) s = huntByte d s := execByte_hunt hs
    _ = _ := huntByte_eq d s

/-- Settles O9. -/
theorem secondMarkerByteConfirms : Obligations.SecondMarkerByteConfirms := fun s hs =>
  calc exec (.byte 0xAA#8) s = seen1Byte 0xAA#8 s := execByte_seen1 hs
    _ = markerConfirmed s := if_pos rfl

/-- Settles O10: RX holds the link, so the release of R97 is made. -/
theorem falseStartReleases : Obligations.FalseStartReleases := fun d s hs ho hd =>
  calc exec (.byte d) s = seen1Byte d s := execByte_seen1 hs
    _ = falseStart d s := if_neg hd
    _ = _ := falseStart_eq_next.mpr ⟨ho, rfl⟩

/-! ### The other events where RX reads -/

/-- Settles O15: neither state is LEN or BODY. -/
theorem timeoutWhileScanning : Obligations.TimeoutWhileScanning := by
  intro s hs
  have hframe : ¬(s.rx_state = .len ∨ s.rx_state = .body) := by rcases hs with hs | hs <;> simp [hs]
  rw [exec, execTimeout_eq, if_neg hframe]

/-- Settles O17: the four states are those in which RX is ready. -/
theorem errorEndsInbound : Obligations.ErrorEndsInbound := by
  intro s hs
  rw [exec, execError_eq, if_pos (rxEvReady_iff.mpr hs), raiseFatal_eq]
  rfl

/-- Settles O18: the four states are those in which RX is ready. -/
theorem closedEndsInbound : Obligations.ClosedEndsInbound := by
  intro s hs
  rw [exec, execClosed_eq, if_pos (rxEvReady_iff.mpr hs), raiseFatal_eq]
  rfl

/-! ### Where an input waits -/

theorem rxEvReady_eq_false_iff {s : State} :
    rxEvReady s = false ↔ s.rx_state = .acq ∨ s.rx_state = .fatal ∨ s.rx_state = .out := by
  cases hs : s.rx_state <;> simp [rxEvReady, hs]

/-- An event's operation does nothing where RX is not ready for it (R88, R95, R105, R125; log entry 10). -/
theorem execEvent_waits (w : EventWord) {s : State} (h : rxEvReady s = false) : exec (decodeEvent w) s = .next s := by
  rcases decodeEvent_cases w with ⟨-, hw⟩ | ⟨-, hw⟩ | ⟨-, hw⟩ | ⟨-, hw⟩ <;> rw [hw, exec]
  · rcases rxEvReady_eq_false_iff.mp h with hs | hs | hs <;> simp only [execByte, hs]
  · have hframe : ¬(s.rx_state = .len ∨ s.rx_state = .body) := by
      rcases rxEvReady_eq_false_iff.mp h with hs | hs | hs <;> simp [hs]
    rw [execTimeout_eq, if_neg hframe]
  · rw [execError_eq, if_neg (by simp [h])]
  · rw [execClosed_eq, if_neg (by simp [h])]

/-- A record's operation does nothing where TX is not ready for it (R109; log entry 10). -/
theorem execCommand_waits (r : CmdRecord) {s : State} (h : s.tx_state ≠ .idle) :
    exec (decodeCommand r) s = .next s := by
  have hready : ¬cmdReady s = true := mt cmdReady_iff.mp h
  rcases decodeCommand_cases r with ⟨hdr, pay, -, -, -, -, he⟩ | ⟨-, -, -, he⟩ | ⟨-, -, he⟩ | ⟨-, -, -, he⟩ <;> rw [he]
  all_goals exact if_neg hready

theorem step_rx {f : Bool} {s : State} {us : List Turn} (hrst : s.rst = false) (hs : s.sched = .rx f :: us) :
    step s = rxTurn f { s with sched := us } := by
  rw [step_of_sched hs]
  simp [takeTurn, hrst]

theorem step_tx {a : Option Ack} {s : State} {us : List Turn} (hrst : s.rst = false) (hs : s.sched = .tx a :: us) :
    step s = txTurn a { s with sched := us } := by
  rw [step_of_sched hs]
  simp [takeTurn, hrst]

/-- RX's turn passes in ACQ, in FATAL, and in OUT while CON is not ready. -/
theorem rxTurn_waits {f : Bool} {s : State}
    (h : s.rx_state = .acq ∨ s.rx_state = .fatal ∨ (s.rx_state = .out ∧ f = false)) : rxTurn f s = .next s := by
  have hstep (hs : s.rx_state = .acq ∨ s.rx_state = .fatal) : rxStep s = .next s :=
    rxStep_eq_next.mpr (.inr ⟨.inl (rxEvReady_eq_false_iff.mpr (or_assoc.mp (.inl hs))), rfl⟩)
  rcases h with hs | hs | ⟨hs, hf⟩
  · exact rxTurn_eq_next.mpr (.inr (.inr ⟨by simp [hs], hstep (.inl hs)⟩))
  · exact rxTurn_eq_next.mpr (.inr (.inr ⟨by simp [hs], hstep (.inr hs)⟩))
  · exact rxTurn_eq_next.mpr (.inr (.inl ⟨hs, hf, rfl⟩))

/-- TX's turn passes in ACQ, in CLOSED, and in EMIT while SNK does not answer. -/
theorem txTurn_waits {a : Option Ack} {s : State}
    (h : s.tx_state = .acq ∨ s.tx_state = .closed ∨ (s.tx_state = .emit ∧ a = none)) : txTurn a s = .next s :=
  txTurn_eq_next.mpr (.inr (.inr (.inr ⟨by tauto, rfl⟩)))

/-- Settles O24: the turns of RX and TX that pass, and the operations that find their agent not ready. -/
theorem inputsWaitAtTheirPorts : Obligations.InputsWaitAtTheirPorts := by
  refine fun s us hrst => ⟨fun f h hs => ?_, fun w h => ?_, fun a h hs => ?_, fun r h => execCommand_waits r h⟩
  · exact (step_rx hrst hs).trans (rxTurn_waits h)
  · exact execEvent_waits w (rxEvReady_eq_false_iff.mpr (by tauto))
  · exact (step_tx hrst hs).trans (txTurn_waits h)

/-! ### The word at RX's port -/

/-- RX's turn takes the word at the port and runs its operation: a state in which RX reads is not OUT (R88). -/
theorem rxTurn_of_ready {f : Bool} {s : State} {w : EventWord} {ws : List EventWord} (hready : rxEvReady s = true)
    (hev : s.rx_ev = w :: ws) : rxTurn f s = exec (decodeEvent w) (takeEvent w ws s) := by
  have hout : ¬foValid s = true := fun h => by simp [rxEvReady, foValid_iff.mp h] at hready
  rw [rxTurn, if_neg hout, rxStep, if_pos hready, hev]

/-- Settles O48. -/
theorem stepRunsOfferedEvent : Obligations.StepRunsOfferedEvent := by
  refine fun s f us w ws hrst hs hready hev => ⟨wellFormed_decodeEvent w, ?_⟩
  rw [step_rx hrst hs, rxTurn_of_ready (s := { s with sched := us }) hready hev]
  rfl

end Sys2Proof.Machine
end

section
/-! Without a marker no frame begins (41_sync_scanner.md R98): an invariant of the runs whose events hold no two consecutive
marker bytes. -/

namespace Sys2Proof.Machine

/-! ### The events still to come -/

section
variable {w : EventWord} {ws : List EventWord} {b : Bool}

theorem noMarkerPair_timeout (hw : decodeEvent w = .timeout) : noMarkerPair b (w :: ws) = noMarkerPair b ws := by
  simp only [noMarkerPair, hw]

theorem noMarkerPair_marker (hw : decodeEvent w = .byte Config.marker) :
    noMarkerPair b (w :: ws) = true ↔ b = false ∧ noMarkerPair true ws = true := by
  simp [noMarkerPair, hw]

theorem noMarkerPair_other_byte {d : Byte} (hw : decodeEvent w = .byte d) (hd : d ≠ Config.marker) :
    noMarkerPair b (w :: ws) = noMarkerPair false ws := by
  simp only [noMarkerPair, hw, if_neg hd]

theorem noMarkerPair_failure (hw : decodeEvent w = .error ∨ decodeEvent w = .closed) :
    noMarkerPair b (w :: ws) = noMarkerPair false ws := by
  rcases hw with hw | hw <;> simp only [noMarkerPair, hw]

/-- Events without a pair after a marker byte have none in any case. -/
theorem noMarkerPair_forget {evs : List EventWord} (h : noMarkerPair b evs = true) : noMarkerPair false evs = true := by
  induction evs with
  | nil => rfl
  | cons w ws ih =>
    rcases decodeEvent_cases w with ⟨-, hw⟩ | ⟨-, hw⟩ | ⟨-, hw⟩ | ⟨-, hw⟩
    · by_cases hd : evData w = Config.marker
      · rw [hd] at hw
        exact (noMarkerPair_marker hw).mpr ⟨rfl, ((noMarkerPair_marker hw).mp h).2⟩
      · rwa [noMarkerPair_other_byte hw hd] at h ⊢
    · rw [noMarkerPair_timeout hw] at h ⊢
      exact ih h
    · rwa [noMarkerPair_failure (.inl hw)] at h ⊢
    · rwa [noMarkerPair_failure (.inr hw)] at h ⊢

end

/-! ### The invariant -/

/-- The states in which RX has read the first marker byte and not yet what follows it. -/
def markerPending : RxState → Bool
  | .acq | .seen1 => true
  | .hunt | .len | .body | .out | .fatal => false

/-- RX has begun no frame, and the events still to come hold no pair that would begin one, the marker byte RX has already read
among them. -/
structure NoFrameBegun (st : RxState) (evs : List EventWord) (frames : List FoFrame) : Prop where
  not_len : st ≠ .len
  not_body : st ≠ .body
  not_out : st ≠ .out
  events : noMarkerPair (markerPending st) evs = true
  frames : frames = []

/-- `NoFrameBegun` of a state. -/
abbrev Scanning (s : State) : Prop := NoFrameBegun s.rx_state s.rx_ev s.delivered

namespace NoFrameBegun

variable {st : RxState} {w : EventWord} {evs : List EventWord} {fs : List FoFrame}

/-- RX goes to a state in which it has read no marker byte. -/
theorem restart {b : Bool} (hev : noMarkerPair b evs = true) (hfs : fs = []) {st' : RxState}
    (hst : st' = .hunt ∨ st' = .fatal) : NoFrameBegun st' evs fs := by
  have hev := noMarkerPair_forget hev
  rcases hst with rfl | rfl <;> exact ⟨nofun, nofun, nofun, hev, hfs⟩

/-- RX goes to a state in which the byte before the events to come was a marker byte. -/
theorem awaitSecond (hev : noMarkerPair true evs = true) (hfs : fs = []) {st' : RxState}
    (hst : st' = .acq ∨ st' = .seen1) : NoFrameBegun st' evs fs := by
  rcases hst with rfl | rfl <;> exact ⟨nofun, nofun, nofun, hev, hfs⟩

/-- A CLOSED event put before the others separates no pair and makes none (log entry 11). -/
theorem closeStream (h : NoFrameBegun st evs fs) : NoFrameBegun st (eventWord 3#2 0#8 :: evs) fs :=
  { h with events := (noMarkerPair_failure (.inr (by decide))).trans (noMarkerPair_forget h.events) }

end NoFrameBegun

/-! ### Every step keeps it -/

/-- A BYTE begins no frame: after a marker byte it is not another one. -/
theorem execByte_scanning {d : Byte} {w : EventWord} {s t : State}
    (h : NoFrameBegun s.rx_state (w :: s.rx_ev) s.delivered) (hw : decodeEvent w = .byte d)
    (hready : rxEvReady s = true) (hx : execByte d s = .next t) : Scanning t := by
  have hpair := h.events
  rcases execByte_cases hx with ⟨hs, -⟩ | ⟨hs, rfl, rfl⟩ | ⟨hs, hd, rfl⟩ | ⟨hs, rfl, -⟩ | ⟨hs, hd, -, rfl⟩ | ⟨hs, -⟩ |
    ⟨hs, -⟩ | ⟨hs, -⟩ | ⟨hs, -⟩
  · rw [rxEvReady_eq_false_iff.mpr (by tauto)] at hready
    cases hready
  · exact .awaitSecond ((noMarkerPair_marker hw).mp hpair).2 h.frames (.inl rfl)
  · exact .restart ((noMarkerPair_other_byte hw hd).symm.trans hpair) h.frames (.inl hs)
  · rw [hs] at hpair
    cases ((noMarkerPair_marker hw).mp hpair).1
  · exact .restart ((noMarkerPair_other_byte hw hd).symm.trans hpair) h.frames (.inl rfl)
  · exact absurd hs h.not_len
  · exact absurd hs h.not_len
  · exact absurd hs h.not_body
  · exact absurd hs h.not_body

theorem raiseFatal_scanning {c : FatalCause} {w : EventWord} {s : State}
    (h : NoFrameBegun s.rx_state (w :: s.rx_ev) s.delivered) (hw : decodeEvent w = .error ∨ decodeEvent w = .closed) :
    Scanning (raiseFatal c s) := by
  rw [raiseFatal_eq]
  exact .restart ((noMarkerPair_failure hw).symm.trans h.events) h.frames (.inr rfl)

theorem execEvent_scanning {w : EventWord} {s t : State} (h : NoFrameBegun s.rx_state (w :: s.rx_ev) s.delivered)
    (hready : rxEvReady s = true) (hx : exec (decodeEvent w) s = .next t) : Scanning t := by
  rcases execEvent_cases hready hx with ⟨d, hw, hb⟩ | ⟨hw, rfl⟩ | ⟨hw, rfl⟩ | ⟨hw, rfl⟩
  · exact execByte_scanning h hw hready hb
  · rw [if_neg (not_or.mpr ⟨h.not_len, h.not_body⟩)]
    exact { h with events := (noMarkerPair_timeout hw).symm.trans h.events }
  · exact raiseFatal_scanning h (.inl hw)
  · exact raiseFatal_scanning h (.inr hw)

theorem rxTurn_scanning {f : Bool} {s t : State} (h : Scanning s) (ht : rxTurn f s = .next t) : Scanning t := by
  rcases rxTurn_eq_next.mp ht with ⟨hs, -⟩ | ⟨-, -, rfl⟩ | ⟨-, hr⟩
  · exact absurd hs h.not_out
  · exact h
  · rcases rxStep_eq_next.mp hr with ⟨w, ws, hready, hev, hx⟩ | ⟨-, rfl⟩
    · have h' : NoFrameBegun s.rx_state (w :: ws) s.delivered := hev ▸ h
      exact execEvent_scanning (s := takeEvent w ws s) h' hready hx
    · exact h

/-- What TX leaves alone is all that the invariant speaks of. -/
theorem Scanning.of_rxPart {s t : State} (h : Scanning s) (hrx : rxPart t = rxPart s) : Scanning t := by
  have hst : t.rx_state = s.rx_state := congrArg RxPart.rx_state hrx
  have hev : t.rx_ev = s.rx_ev := congrArg RxPart.rx_ev hrx
  have hfs : t.delivered = s.delivered := congrArg RxPart.delivered hrx
  rw [Scanning, hst, hev, hfs]
  exact h

/-- A grant to RX keeps the marker byte pending. -/
theorem arbTurn_scanning (c : Grantee) {s : State} (h : Scanning s) : Scanning (arbTurn c s) := by
  rcases arbTurn_cases c s with ⟨he, -, hs⟩ | ⟨he, -⟩ | ⟨he, -⟩ <;> rw [he]
  · have hpair : noMarkerPair (markerPending .acq) s.rx_ev = true := hs ▸ h.events
    exact .awaitSecond hpair h.frames (.inr rfl)
  · exact h
  · exact h

theorem resetBlock_scanning {s : State} (h : Scanning s) : Scanning (resetBlock s) :=
  .restart h.events h.frames (.inl rfl)

theorem hostTurn_scanning {op : HostOp} {s t : State} (h : Scanning s) (ht : hostTurn op s = .next t) : Scanning t := by
  rcases hostTurn_eq_next.mp ht with ⟨-, rfl⟩ | ⟨-, -, rfl⟩ | ⟨r, -, rfl⟩ | ⟨-, rfl⟩ | ⟨-, rfl⟩
  · exact resetBlock_scanning (s := { s with rst := true }) h
  · exact h
  · exact h
  · exact h
  · exact h.closeStream

theorem step_scanning {s t : State} (h : Scanning s) (ht : step s = .next t) : Scanning t := by
  rcases step_eq_next.mp ht with ⟨-, rfl⟩ | ⟨u, us, -, hu⟩
  · exact h
  · have h' : Scanning { s with sched := us } := h
    rcases hu with ⟨op, -, hx⟩ | ⟨-, -, rfl⟩ | ⟨f, -, -, hx⟩ | ⟨a, -, -, hx⟩ | ⟨c, -, -, rfl⟩
    · exact hostTurn_scanning h' hx
    · exact resetBlock_scanning h'
    · exact rxTurn_scanning h' hx
    · exact h'.of_rxPart (txTurn_rxPart hx)
    · exact arbTurn_scanning c h'

/-- Settles O41: the invariant holds after reset and every step keeps it. -/
theorem noMarkerPairNoFrame : Obligations.NoMarkerPairNoFrame := by
  intro evs cmds turns k t hev hrun
  have h : Scanning t :=
    runs_induction (fun _ _ => step_scanning) k (s := bootWith evs cmds turns) (.restart hev rfl (.inl rfl)) hrun
  have hvalid : ¬foValid t = true := mt foValid_iff.mp h.not_out
  exact ⟨h.not_len, if_neg hvalid, Bool.eq_false_iff.mpr hvalid, h.frames⟩

end Sys2Proof.Machine
end

section
/-! The frame reader's rules one at a time (42_frame_reader.md R100 to R105): what RXBUF reads after a byte is stored, the
verdict on a frame whose last byte is stored, and what each operation does in LEN, BODY and OUT. -/

namespace Sys2Proof.Machine

/-! ### A BYTE in LEN and in BODY -/

theorem execByte_len {d : Byte} {s : State} (hs : s.rx_state = .len) : execByte d s = lenByte d s := by
  simp only [execByte, hs]

theorem execByte_body {d : Byte} {s : State} (hs : s.rx_state = .body) : execByte d s = bodyByte d s := by
  simp only [execByte, hs]

/-- A legal length byte is stored as byte 0 of the frame (R100). -/
theorem execByte_len_accepted {d : Byte} {s : State} (hs : s.rx_state = .len) (hd : Config.minLen ≤ d.toNat) :
    execByte d s =
      .next { s with rx_len := d, rx_buf := memPut s.rx_buf 0 d, rx_idx := 1#8, rx_state := .body } :=
  calc execByte d s = lenByte d s := execByte_len hs
    _ = lenAccepted d s := if_pos hd
    _ = _ := lenAccepted_eq d s

/-- An index below a length byte lies in RXBUF: a length byte is at most 255. -/
theorem index_lt_rxBufSize {i L : Byte} (h : i.toNat < L.toNat) : i.toNat < Config.rxBufSize := by
  have := L.isLt
  exact show i.toNat < 255 by omega

/-- Below a length byte an index goes up by one without wrapping. -/
theorem toNat_index_succ {i L : Byte} (h : i.toNat + 1 < L.toNat) : (i + 1#8).toNat = i.toNat + 1 := by
  have := L.isLt
  bv_omega

/-- A frame byte that is not the last is stored at `rx_idx` (R102). -/
theorem execByte_body_middle {d : Byte} {s : State} (hs : s.rx_state = .body)
    (hi : s.rx_idx.toNat + 1 < s.rx_len.toNat) :
    execByte d s = .next { s with rx_buf := memPut s.rx_buf s.rx_idx.toNat d, rx_idx := s.rx_idx + 1#8 } :=
  calc execByte d s = bodyByte d s := execByte_body hs
    _ = bodyMiddle d s := if_pos hi
    _ = _ := bodyMiddle_eq_next.mpr ⟨index_lt_rxBufSize (Nat.lt_of_succ_lt hi), rfl⟩

/-- RXBUF after one byte is stored: that byte at its index, every other byte as before. -/
theorem rxRead_of_memPut {s t : State} {a : Nat} {d : Byte} (ha : a < Config.rxBufSize)
    (hbuf : t.rx_buf = memPut s.rx_buf a d) (hresets : t.resets = s.resets) :
    rxRead t a = some d ∧ ∀ b, b ≠ a → rxRead t b = rxRead s b := by
  have hread (b : Nat) : rxRead t b = if b = a then some d else rxRead s b := by
    rw [rxRead, hbuf, hresets]
    exact bufRead_memPut s.rx_buf d b ha
  exact ⟨(hread a).trans (if_pos rfl), fun b hb => (hread b).trans (if_neg hb)⟩

/-- Settles O11. -/
theorem lengthByteAccepted : Obligations.LengthByteAccepted := fun _ _ hs hd =>
  ⟨_, _, execByte_len_accepted hs hd, rfl, rxRead_of_memPut (by decide) rfl rfl⟩

/-- Settles O12: the drop of R124. -/
theorem shortLengthDropped : Obligations.ShortLengthDropped := fun d s hs hd =>
  calc exec (.byte d) s = lenByte d s := execByte_len hs
    _ = lenShort d s := if_neg (Nat.not_le_of_lt hd)
    _ = _ := congrArg Host.Outcome.next (raiseDrop_eq .shortLength (.byte d) s)

/-- Settles O13. -/
theorem bodyByteStored : Obligations.BodyByteStored := fun _ _ hs hi =>
  ⟨_, _, _, execByte_body_middle hs hi, rfl, toNat_index_succ hi,
    rxRead_of_memPut (index_lt_rxBufSize (Nat.lt_of_succ_lt hi)) rfl rfl⟩

/-- Settles O16: both states are of those in which a timeout drops the attempt. -/
theorem timeoutInFrameDrops : Obligations.TimeoutInFrameDrops := fun s hs => by
  rw [exec, execTimeout_eq, if_pos hs, raiseDrop_eq]

/-! ### The verdict on a frame -/

/-- The verifier's sums, from the bytes it reads: the last two of them, and the checksum of those before (R83). -/
theorem frameSums_of_reads {rd : Nat → Option Byte} {L : Byte} {bs : List Byte} {hi lo : Byte}
    (hL : L.toNat = bs.length + 2) (hbs : ∀ i, i < bs.length → rd i = bs[i]?) (hhi : rd bs.length = some hi)
    (hlo : rd (bs.length + 1) = some lo) : frameSums rd L = some (be16 hi lo, Config.checksum16 bs) := by
  have hbody : readRange rd 0 bs.length = some bs :=
    readRange_eq_some.mpr ⟨rfl, fun i h => (congrArg rd (Nat.zero_add i)).trans (hbs i h)⟩
  have hreceived : readBe16 rd bs.length = some (be16 hi lo) := readBe16_eq_some.mpr ⟨hi, lo, hhi, hlo, rfl⟩
  rw [frameSums, hL, Nat.add_sub_cancel, hbody, hreceived]

/-- What becomes of a frame with these two sums, its last byte stored in `s`: it is offered, or dropped with one record, and
the link is free in both outcomes (R103). -/
def judged (received computed : U16) (s : State) : State :=
  if computed = received then { s with owner := .none, rx_state := .out }
  else
    { s with
      owner := .none, rx_state := .hunt,
      diag_log := s.diag_log ++ [(.checksumMismatch, .sums received computed)] }

theorem verifyFrame_eq_judged {s : State} {received computed : U16}
    (hsums : frameSums (rxRead s) s.rx_len = some (received, computed)) (ho : s.owner = .rx) :
    verifyFrame s = .next (judged received computed s) := by
  refine verifyFrame_eq_next.mpr ⟨received, computed, hsums, ?_⟩
  by_cases hc : computed = received
  · exact .inl ⟨hc, ho, if_pos hc⟩
  · exact .inr ⟨hc, by rw [judged, if_neg hc, raiseDrop_eq, if_pos ho]⟩

/-- The last byte of a frame is stored at `rx_idx`, and the verdict is made on the bytes that stand before it: `bs`, and the
high byte `hi` of the received sum (R103). -/
theorem execByte_body_last {d hi : Byte} {s : State} {bs : List Byte} (hs : s.rx_state = .body) (ho : s.owner = .rx)
    (hmin : Config.minLen ≤ s.rx_len.toNat) (hidx : s.rx_idx.toNat + 1 = s.rx_len.toNat)
    (hL : s.rx_len.toNat = bs.length + 2) (hbs : ∀ i, i < bs.length → rxRead s i = bs[i]?)
    (hhi : rxRead s bs.length = some hi) :
    execByte d s =
      .next (judged (be16 hi d) (Config.checksum16 bs)
        { s with rx_buf := memPut s.rx_buf s.rx_idx.toNat d, rx_idx := s.rx_len }) := by
  have hinside : s.rx_idx.toNat < Config.rxBufSize := index_lt_rxBufSize (Nat.lt_of_succ_le hidx.le)
  have hlast : s.rx_idx.toNat = bs.length + 1 := by omega
  obtain ⟨hnew, hold⟩ := rxRead_of_memPut (s := s) (d := d)
    (t := { s with rx_buf := memPut s.rx_buf s.rx_idx.toNat d, rx_idx := s.rx_len }) hinside rfl rfl
  have hsums := frameSums_of_reads hL (fun i hi => (hold i (by omega)).trans (hbs i hi))
    ((hold bs.length (by omega)).trans hhi) ((congrArg _ hlast.symm).trans hnew)
  calc execByte d s = bodyByte d s := execByte_body hs
    _ = bodyLast d s := if_neg (by omega)
    _ = _ := bodyLast_eq_next.mpr ⟨hmin, hinside, verifyFrame_eq_judged hsums ho⟩

theorem judged_rx_buf (received computed : U16) (s : State) : (judged received computed s).rx_buf = s.rx_buf := by
  unfold judged
  split <;> rfl

theorem judged_resets (received computed : U16) (s : State) : (judged received computed s).resets = s.resets := by
  unfold judged
  split <;> rfl

/-- Settles O14: every byte of RXBUF reads, so the body and the high byte of the received sum are there to be read. -/
theorem lastByteVerified : Obligations.LastByteVerified := by
  intro d s hs ho hmin hidx
  have hreads := rxRead_frame s
  obtain ⟨bs, hbs⟩ := readRange_isSome (rd := rxRead s) (a := 0) (n := s.rx_len.toNat - 2) fun i hi =>
    hreads _ (by omega)
  obtain ⟨hi, hhi⟩ := Option.isSome_iff_exists.mp (hreads (s.rx_len.toNat - 2) (by omega))
  obtain ⟨hlen, hbytes⟩ := readRange_eq_some.mp hbs
  simp only [Nat.zero_add] at hbytes
  refine ⟨_, _, bs, hi, hlen, hbytes, hhi, execByte_body_last hs ho hmin hidx (by omega) ?_ ?_, rfl,
    rxRead_of_memPut (index_lt_rxBufSize (Nat.lt_of_succ_le hidx.le)) (judged_rx_buf _ _ _) (judged_resets _ _ _)⟩
  · rwa [hlen]
  · rwa [hlen]

/-! ### OUT -/

/-- In OUT a frame of legal length is offered: its record is the one computed from RXBUF (R25). -/
theorem fo_of_out {s : State} (hs : s.rx_state = .out) (hmin : Config.minLen ≤ s.rx_len.toNat) :
    ∃ f, fo s = some f ∧ foRecord (rxRead s) s.rx_len = some f := by
  obtain ⟨f, hf⟩ := foRecord_isSome hmin (rxRead_frame s)
  exact ⟨f, (if_pos (foValid_iff.mpr hs)).trans hf, hf⟩

/-- Settles O36: the record that is delivered is the one `fo` offers. -/
theorem deliverTransfers : Obligations.DeliverTransfers := by
  intro s us hrst hs hmin hsched
  obtain ⟨f, hfo, hf⟩ := fo_of_out hs hmin
  refine ⟨f, hfo, ?_⟩
  calc step s = rxTurn true { s with sched := us } := step_rx hrst hsched
    _ = _ := rxTurn_eq_next.mpr (.inl ⟨hs, rfl, deliver_eq_next.mpr ⟨hmin, f, hf, rfl⟩⟩)

end Sys2Proof.Machine
end

section
/-! A whole frame read from HUNT (42_frame_reader.md R108): the marker and the grant, the length byte, the bytes of the body,
and the last byte with its verdict, each as a run of its own, and then joined. -/

namespace Sys2Proof.Machine

/-! ### Runs -/

theorem runs_zero (s : State) : runs 0 s = .next s := rfl

/-- A run after its first step. -/
theorem runs_of_step {k : Nat} {s t : State} {r : Result} (h : step s = .next t) (hk : runs k t = r) :
    runs (k + 1) s = r := by
  have hcore : Sys2Proof.core.step s = .next t := h
  simp only [runs, Host.Core.run, hcore]
  exact hk

/-- A run after its first part. -/
theorem runs_trans {j k : Nat} {s t : State} {r : Result} (h : runs j s = .next t) (hk : runs k t = r) :
    runs (j + k) s = r := by
  induction j generalizing s with
  | zero =>
    obtain rfl := next_eq_next.mp h
    rwa [Nat.zero_add]
  | succ j ih =>
    cases hu : step s with
    | next u => exact Nat.succ_add j k ▸ runs_of_step hu (ih ((runs_of_step hu rfl).symm.trans h))
    | fault | refused =>
      have hcore : Sys2Proof.core.step s = _ := hu
      simp only [runs, Host.Core.run, hcore] at h
      cases h

/-! ### The bytes of a list in the buffer -/

theorem memWriteList_cons {size a : Nat} (m : Memory) (v : Byte) (vs : List Byte) (ha : a < size) :
    memWriteList size m a (v :: vs) = memWriteList size (memPut m a v) (a + 1) vs := by
  rw [memWriteList, memWrite_inside m v ha]

/-- A list write goes on with the byte after it. -/
theorem memWriteList_concat {size a : Nat} {m m' : Memory} {vs : List Byte} (v : Byte)
    (h : memWriteList size m a vs = some m') (ha : a + vs.length < size) :
    memWriteList size m a (vs ++ [v]) = some (memPut m' (a + vs.length) v) := by
  induction vs generalizing m a with
  | nil =>
    obtain rfl : m = m' := Option.some.inj h
    exact memWriteList_cons m v [] ha
  | cons u vs ih =>
    rw [List.length_cons] at ha
    rw [memWriteList_cons m u vs (by omega)] at h
    rw [List.cons_append, memWriteList_cons m u _ (by omega), ih h (by omega), List.length_cons, Nat.add_right_comm,
      Nat.add_assoc]

/-- A list written from byte 0 of RXBUF is read back. -/
theorem rxRead_of_memWriteList {t : State} {m : Memory} {bs : List Byte}
    (h : memWriteList Config.rxBufSize m 0 bs = some t.rx_buf) : ∀ i, i < bs.length → rxRead t i = bs[i]? :=
  fun i hi => (bufRead_memWriteList h i).trans (if_pos ⟨Nat.zero_le i, by omega⟩)

/-! ### The bytes at the port -/

theorem bytesIn_append (bs cs : List Byte) : bytesIn (bs ++ cs) = bytesIn bs ++ bytesIn cs := List.map_append

section
variable {s : State} {d : Byte} {ws : List EventWord} {us : List Turn}

/-- RX's turn takes the byte at the port where RX reads (R88). -/
theorem step_byte (hrst : s.rst = false) (hready : rxEvReady s = true) (hev : s.rx_ev = bytesIn [d] ++ ws)
    (hsched : s.sched = .rx false :: us) :
    step s = execByte d { s with rx_ev := ws, sched := us, wire_in := s.wire_in ++ bytesIn [d] } := by
  have hdec : decodeEvent (eventWord 0#2 d) = .byte d := decodeEvent_eventWord 0#2 d
  obtain ⟨-, hstep⟩ := stepRunsOfferedEvent s false us (eventWord 0#2 d) ws hrst hsched hready hev
  rw [hstep, hdec]
  rfl

/-! ### The marker -/

theorem step_first_marker (hrst : s.rst = false) (hs : s.rx_state = .hunt)
    (hev : s.rx_ev = bytesIn [Config.marker] ++ ws) (hsched : s.sched = .rx false :: us) :
    step s =
      .next { s with
        rx_state := .acq, rx_ev := ws, sched := us, wire_in := s.wire_in ++ bytesIn [Config.marker] } :=
  (step_byte hrst (rxEvReady_iff.mpr (.inl hs)) hev hsched).trans (byteInHunt Config.marker _ hs)

theorem step_second_marker (hrst : s.rst = false) (hs : s.rx_state = .seen1)
    (hev : s.rx_ev = bytesIn [Config.marker] ++ ws) (hsched : s.sched = .rx false :: us) :
    step s =
      .next { s with
        rx_state := .len, rx_ev := ws, sched := us, wire_in := s.wire_in ++ bytesIn [Config.marker] } :=
  (step_byte hrst (rxEvReady_iff.mpr (.inr (.inl hs))) hev hsched).trans (secondMarkerByteConfirms _ hs)

theorem step_grantRx (hrst : s.rst = false) (hs : s.rx_state = .acq) (ho : s.owner = .none)
    (hsched : s.sched = .arb .rx :: us) :
    step s = .next { s with owner := .rx, rx_state := .seen1, sched := us } :=
  (grantsTakeTheLink s .rx us hrst hsched ho).1 hs (.inr rfl)

/-- The two marker bytes and the grant between them take RX from HUNT to LEN with the link held (R93, R53, R96). -/
theorem runs_marker (hrst : s.rst = false) (hs : s.rx_state = .hunt) (ho : s.owner = .none)
    (hev : s.rx_ev = bytesIn markerBytes ++ ws) (hsched : s.sched = .rx false :: .arb .rx :: .rx false :: us) :
    runs 3 s =
      .next { s with
        rx_state := .len, owner := .rx, rx_ev := ws, sched := us, wire_in := s.wire_in ++ bytesIn markerBytes } := by
  refine runs_of_step (step_first_marker hrst hs hev hsched) ?_
  refine runs_of_step (step_grantRx hrst rfl ho rfl) ?_
  refine runs_of_step (step_second_marker hrst rfl rfl rfl) ?_
  rw [runs_zero, List.append_assoc]
  rfl

/-! ### In the body of a frame -/

/-- `s` with RX in BODY and the link held, `idx` bytes of a frame of length `L` stored as `m`: the bytes `read` are taken from
the port, `ws` is still to come, and `us` are the turns left. -/
def midFrame (L idx : Byte) (m : Memory) (read : List Byte) (ws : List EventWord) (us : List Turn) (s : State) : State :=
  { s with
    rx_state := .body, owner := .rx, rx_len := L, rx_idx := idx, rx_buf := m, rx_ev := ws, sched := us,
    wire_in := s.wire_in ++ bytesIn read }

/-- The marker and a legal length byte, with the grant after the first of them, begin a frame (R93, R53, R96, R100). -/
theorem runs_beginning {L : Byte} (hrst : s.rst = false) (hs : s.rx_state = .hunt) (ho : s.owner = .none)
    (hmin : Config.minLen ≤ L.toNat) (hev : s.rx_ev = bytesIn (markerBytes ++ [L]) ++ ws)
    (hsched : s.sched = .rx false :: .arb .rx :: .rx false :: .rx false :: us) :
    runs 4 s = .next (midFrame L 1#8 (memPut s.rx_buf 0 L) (markerBytes ++ [L]) ws us s) := by
  have hlength := (step_byte (s := { s with
      rx_state := .len, owner := .rx, rx_ev := bytesIn [L] ++ ws, sched := .rx false :: us,
      wire_in := s.wire_in ++ bytesIn markerBytes }) hrst rfl rfl rfl).trans (execByte_len_accepted rfl hmin)
  refine runs_trans (k := 1) (runs_marker hrst hs ho hev hsched) (runs_of_step hlength ?_)
  rw [runs_zero, midFrame, List.append_assoc]
  rfl

section
variable {L idx : Byte} {m : Memory} {read : List Byte}

/-- The byte at the port is taken and run (R88). -/
theorem step_midFrame (hrst : s.rst = false) :
    step (midFrame L idx m read (bytesIn [d] ++ ws) (.rx false :: us) s) =
      execByte d (midFrame L idx m (read ++ [d]) ws us s) := by
  have hstep := step_byte (s := midFrame L idx m read (bytesIn [d] ++ ws) (.rx false :: us) s) hrst rfl rfl rfl
  rw [hstep, midFrame, midFrame, bytesIn_append, List.append_assoc]

/-- The bytes before the last of a frame are stored one after the other (R102). -/
theorem runs_midFrame {bs : List Byte} {idx' : Byte} {m' : Memory} (hrst : s.rst = false)
    (hlt : idx.toNat + bs.length < L.toNat) (hidx : idx'.toNat = idx.toNat + bs.length)
    (hm : memWriteList Config.rxBufSize m idx.toNat bs = some m') :
    runs bs.length
        (midFrame L idx m read (bytesIn bs ++ ws) (List.replicate bs.length (.rx false) ++ us) s) =
      .next (midFrame L idx' m' (read ++ bs) ws us s) := by
  induction bs generalizing idx m read with
  | nil =>
    obtain rfl : m = m' := Option.some.inj hm
    obtain rfl : idx' = idx := BitVec.eq_of_toNat_eq hidx
    rw [List.append_nil]
    rfl
  | cons b bs ih =>
    rw [List.length_cons] at hlt hidx
    have hi : idx.toNat + 1 < L.toNat := by omega
    have hnext := toNat_index_succ hi
    rw [memWriteList_cons _ _ _ (index_lt_rxBufSize (Nat.lt_of_succ_lt hi)), ← hnext] at hm
    have hrest := ih (read := read ++ [b]) (by omega) (by omega) hm
    rw [List.append_assoc] at hrest
    exact runs_of_step ((step_midFrame hrst).trans (execByte_body_middle rfl hi)) hrest

/-- The last byte completes the frame: it is judged by its last two bytes (R103). -/
theorem step_lastByte {m₀ : Memory} {bs : List Byte} {hi lo : Byte} (hrst : s.rst = false)
    (hmin : Config.minLen ≤ L.toNat) (hL : L.toNat = bs.length + 2) (hidx : idx.toNat = bs.length + 1)
    (hm : memWriteList Config.rxBufSize m₀ 0 (bs ++ [hi]) = some m) :
    step (midFrame L idx m read (bytesIn [lo] ++ ws) (.rx false :: us) s) =
      .next (judged (be16 hi lo) (Config.checksum16 bs)
        (midFrame L L (memPut m idx.toNat lo) (read ++ [lo]) ws us s)) := by
  have hread : ∀ i, i < (bs ++ [hi]).length → rxRead (midFrame L idx m (read ++ [lo]) ws us s) i = (bs ++ [hi])[i]? :=
    rxRead_of_memWriteList hm
  rw [List.length_append, List.length_singleton] at hread
  have hbody (i : Nat) (h : i < bs.length) : rxRead (midFrame L idx m (read ++ [lo]) ws us s) i = bs[i]? :=
    (hread i (by omega)).trans (List.getElem?_append_left h)
  have hhigh : rxRead (midFrame L idx m (read ++ [lo]) ws us s) bs.length = some hi :=
    (hread _ (by omega)).trans List.getElem?_concat_length
  exact (step_midFrame hrst).trans
    (execByte_body_last rfl rfl hmin (show idx.toNat + 1 = L.toNat by omega) hL hbody hhigh)

end

/-! ### A whole frame -/

/-- The turns of a frame of `n + 3` bytes: the marker's two with the grant between them, the length byte's, those of the body,
and the last byte's. -/
theorem frameTurns_parts (n : Nat) (us : List Turn) :
    frameTurns (n + 3 + 2) ++ us =
      .rx false :: .arb .rx :: .rx false :: .rx false ::
        (List.replicate (n + 1) (.rx false) ++ .rx false :: us) := by
  rw [frameTurns, List.replicate_succ, List.replicate_succ, List.replicate_succ']
  simp

section
variable {L hi lo : Byte} {rest : List Byte}

theorem toNat_last_index (hL : L.toNat = (L :: rest).length + 2) : (L - 1#8).toNat = rest.length + 2 := by
  have hn : L.toNat = rest.length + 3 := hL
  bv_omega

/-- A frame fits RXBUF: it is the length byte, the bytes up to the high byte of the sum as `m` holds them, and the last byte. -/
theorem storedFrame_parts (m₀ : Memory) (hL : L.toNat = (L :: rest).length + 2) :
    ∃ m, memWriteList Config.rxBufSize m₀ 0 ((L :: rest) ++ [hi]) = some m ∧
      memWriteList Config.rxBufSize (memPut m₀ 0 L) 1 (rest ++ [hi]) = some m ∧
      memWriteList Config.rxBufSize m₀ 0 ((L :: rest) ++ [hi, lo]) = some (memPut m (L - 1#8).toNat lo) := by
  have hlen : ((L :: rest) ++ [hi]).length = rest.length + 2 := List.length_append
  have hn : L.toNat = rest.length + 3 := hL
  have hsize : L.toNat < Config.rxBufSize + 1 := L.isLt
  obtain ⟨m, hm⟩ := memWriteList_inside (size := Config.rxBufSize) m₀ 0 ((L :: rest) ++ [hi]) (by omega)
  have hlast := memWriteList_concat lo hm (by omega)
  rw [hlen, Nat.zero_add, ← toNat_last_index hL, List.append_assoc] at hlast
  exact ⟨m, hm, (memWriteList_cons m₀ L (rest ++ [hi]) (by omega)).symm.trans hm, hlast⟩

/-- A marker, a legal length byte, and as many bytes as it says: RX has stored the frame and judges it by its last two bytes
(R100, R102, R103, R108). -/
theorem runs_frame (hrst : s.rst = false) (hs : s.rx_state = .hunt) (ho : s.owner = .none)
    (hmin : Config.minLen ≤ L.toNat) (hL : L.toNat = (L :: rest).length + 2)
    (hev : s.rx_ev = bytesIn (wireImage ((L :: rest) ++ [hi, lo])) ++ ws)
    (hsched : s.sched = frameTurns (L.toNat + 2) ++ us) :
    ∃ m, memWriteList Config.rxBufSize s.rx_buf 0 ((L :: rest) ++ [hi, lo]) = some m ∧
      runs (L.toNat + 3) s =
        .next (judged (be16 hi lo) (Config.checksum16 (L :: rest))
          (midFrame L L m (wireImage ((L :: rest) ++ [hi, lo])) ws us s)) := by
  obtain ⟨m, hm, hmbody, hmlast⟩ := storedFrame_parts (hi := hi) (lo := lo) s.rx_buf hL
  have hn : L.toNat = rest.length + 3 := hL
  have hidx := toNat_last_index hL
  have hlen : (rest ++ [hi]).length = rest.length + 1 := List.length_append
  have himage : wireImage ((L :: rest) ++ [hi, lo]) = markerBytes ++ [L] ++ (rest ++ [hi]) ++ [lo] := by
    simp [wireImage]
  refine ⟨_, hmlast, ?_⟩
  rw [himage, bytesIn_append, bytesIn_append, List.append_assoc, List.append_assoc] at hev
  rw [hn, frameTurns_parts, ← hlen] at hsched
  rw [himage, show L.toNat + 3 = 4 + ((rest ++ [hi]).length + 1) by omega]
  refine runs_trans (runs_beginning hrst hs ho hmin hev hsched) ?_
  refine runs_trans (runs_midFrame (idx' := L - 1#8) hrst (show 1 + _ < _ by omega) (show _ = 1 + _ by omega) hmbody) ?_
  exact runs_of_step (step_lastByte hrst hmin hL hidx hm) rfl

end

end

/-- In OUT the record offered shows the bytes that were stored (R25). -/
theorem fo_bytes_of_stored {t : State} {m : Memory} {frame : List Byte} (hs : t.rx_state = .out)
    (hmin : Config.minLen ≤ t.rx_len.toNat) (hlen : frame.length = t.rx_len.toNat)
    (hm : memWriteList Config.rxBufSize m 0 frame = some t.rx_buf) : ∃ f, fo t = some f ∧ f.bytes = frame := by
  obtain ⟨f, hfo, hf⟩ := fo_of_out hs hmin
  obtain ⟨hbytes, -⟩ := foRecord_eq_some.mp hf
  have hframe : readRange (rxRead t) 0 t.rx_len.toNat = some frame :=
    readRange_eq_some.mpr ⟨hlen, fun i hi => by rw [Nat.zero_add, rxRead_of_memWriteList hm i (hlen ▸ hi)]⟩
  exact ⟨f, hfo, Option.some.inj (hbytes.symm.trans hframe)⟩

/-- Settles O38: the received sum is the body's checksum, so the frame is offered. -/
theorem validFrameReachesOut : Obligations.ValidFrameReachesOut := by
  intro s us ws L rest hrst hs ho hmin hL hev hsched
  obtain ⟨m, hm, hrun⟩ := runs_frame (hi := hi8 (Config.checksum16 (L :: rest)))
    (lo := lo8 (Config.checksum16 (L :: rest))) hrst hs ho hmin hL hev hsched
  rw [be16_hi8_lo8, judged, if_pos rfl] at hrun
  obtain ⟨f, hfo, hbytes⟩ := fo_bytes_of_stored (t := { midFrame L L m _ ws us s with owner := .none, rx_state := .out })
    rfl hmin ((List.length_append ..).trans hL.symm) hm
  exact ⟨_, f, hrun, rfl, rfl, hfo, hbytes, rfl, rfl, rfl, rfl, rfl, rfl, rfl, rfl, rfl⟩

/-- Settles O39: the received sum is not the body's checksum, so the frame is dropped. -/
theorem corruptFrameDropped : Obligations.CorruptFrameDropped := by
  intro s us ws L rest hi lo hrst hs ho hmin hL hne hev hsched
  obtain ⟨m, -, hrun⟩ := runs_frame hrst hs ho hmin hL hev hsched
  rw [judged, if_neg hne.symm] at hrun
  exact ⟨_, hrun, rfl, rfl, rfl, rfl, rfl, rfl, rfl⟩

end Sys2Proof.Machine
end

section
/-! TX's operations one at a time (43_frame_encoder.md sections 1 to 3): what each command does in IDLE, how a turn of TX
runs the record at its port, what the ENC step makes of the latched record (R114 to R119), and one byte of EMIT (R120). -/

namespace Sys2Proof.Machine

/-! ### The commands in IDLE -/

/-- Settles O19: the record latched is the one whose fields are the operands. -/
theorem encodeLatched : Obligations.EncodeLatched := by
  intro serr n op hdr pay s hs
  obtain ⟨hkind, hserr, hreserved, hn, hop⟩ := encodeRecord_fields serr n op hdr pay
  exact ⟨_, execEncode_ready (cmdReady_iff.mpr hs), hkind, hserr, hreserved, hn, hop, rfl⟩

/-- Settles O20: the record latched is the one whose fields are the operands. -/
theorem rawLatched : Obligations.RawLatched := by
  intro m bytes s hs
  obtain ⟨hkind, hreserved, hm⟩ := rawRecord_fields m bytes
  exact ⟨_, execRaw_ready (cmdReady_iff.mpr hs), hkind, hreserved, hm, rfl⟩

/-- Settles O21. -/
theorem closeAccepted : Obligations.CloseAccepted := fun _ hs => execClose_ready (cmdReady_iff.mpr hs)

/-- Settles O22. -/
theorem illegalDiscarded : Obligations.IllegalDiscarded := fun r _ hs =>
  execIllegal_ready (r := r) (cmdReady_iff.mpr hs)

/-- A frame command is latched as the record it was offered as: its operands are the record's fields (R110, R111). -/
theorem exec_frameCommand {r : CmdRecord} {s : State} (hready : cmdReady s = true)
    (hframe : isFrameCommand (decodeCommand r) = true) : exec (decodeCommand r) s = .next (latchCommand r s) := by
  rcases execCommand_cases (r := r) hready with ⟨-, he⟩ | ⟨-, he⟩ | ⟨hdec, -⟩ | ⟨hdec, -⟩
  · exact he
  · exact he
  · rw [hdec] at hframe
    cases hframe
  · rw [hdec] at hframe
    cases hframe

/-! ### The record at TX's port -/

/-- TX's turn in IDLE takes the record at the port and runs its operation (R109). -/
theorem txTurn_idle {a : Option Ack} {s : State} {r : CmdRecord} {rs : List CmdRecord} (hs : s.tx_state = .idle)
    (hcmd : s.cmd = r :: rs) : txTurn a s = exec (decodeCommand r) (takeRecord rs s) := by
  simp only [txTurn, hs, acceptStep, hcmd]

/-- Settles O49. -/
theorem stepRunsOfferedRecord : Obligations.StepRunsOfferedRecord := by
  refine fun s a us r rs hrst hsched hready hcmd => ⟨wellFormed_decodeCommand r, ?_⟩
  exact (step_tx hrst hsched).trans (txTurn_idle (s := { s with sched := us }) (cmdReady_iff.mp hready) hcmd)

/-- Settles O23: the record's operation runs, and it is a frame command. -/
theorem offeredRecordIsLatched : Obligations.OfferedRecordIsLatched := by
  intro s a us r rs hrst hsched hs hcmd hframe
  have hready : cmdReady s = true := cmdReady_iff.mpr hs
  obtain ⟨-, hstep⟩ := stepRunsOfferedRecord s a us r rs hrst hsched hready hcmd
  exact hstep.trans (exec_frameCommand hready hframe)

/-! ### The ENC step -/

theorem txTurn_enc {a : Option Ack} {s : State} (hs : s.tx_state = .enc) : txTurn a s = encStep s := by
  simp only [txTurn, hs]

theorem step_enc {a : Option Ack} {s : State} {us : List Turn} (hrst : s.rst = false) (hsched : s.sched = .tx a :: us)
    (hs : s.tx_state = .enc) : step s = encStep { s with sched := us } :=
  (step_tx hrst hsched).trans (txTurn_enc hs)

section
variable {s : State} {serr : Bool} {n : Byte} {op : U16} {hdr : HdrBytes} {pay bytes : List Byte}

theorem encStep_encode (hdec : decodeCommand s.tx_cmd = .encode serr n op hdr pay) :
    encStep s = encEncode serr n op hdr pay s := by
  simp only [encStep, hdec]

/-- A legal `ENCODE` passes both checks of R115, and its image is put into TXBUF. -/
theorem encStep_legal_encode (hdec : decodeCommand s.tx_cmd = .encode false n op hdr pay)
    (hn : n.toNat ≤ Config.maxPayload) : encStep s = loadImage (wireImage (encodeFrame n op hdr pay)) s :=
  calc encStep s = encEncode false n op hdr pay s := encStep_encode hdec
    _ = _ := if_neg (Nat.not_lt_of_le hn)

/-- A `RAW` is put into TXBUF behind the marker, unchecked (R119). -/
theorem encStep_raw (hdec : decodeCommand s.tx_cmd = .raw n bytes) : encStep s = loadImage (wireImage bytes) s := by
  simp only [encStep, hdec, encRaw]

/-- A TX error with the link held: the link is free, one status, IDLE (R126). -/
theorem raiseTxErr_held (code : TxStatus) (ho : s.owner = .tx) :
    raiseTxErr code s = .next { s with owner := .none, txs_log := s.txs_log ++ [code], tx_state := .idle } :=
  raiseTxErr_eq_next.mpr ⟨ho, rfl⟩

/-- The failures of R115 in R117's order. -/
theorem encEncode_fails (hbad : serr = true ∨ Config.maxPayload < n.toNat) :
    encEncode serr n op hdr pay s = raiseTxErr (if serr then .encErrSerialize else .encErrLength) s := by
  cases serr with
  | true => rfl
  | false => exact if_pos (hbad.resolve_left nofun)

end

/-- Settles O29. -/
theorem encodeFailures : Obligations.EncodeFailures := by
  intro s a us serr n op hdr pay hrst hsched hs ho hdec hbad
  calc step s = encStep { s with sched := us } := step_enc hrst hsched hs
    _ = encEncode serr n op hdr pay { s with sched := us } := encStep_encode hdec
    _ = raiseTxErr _ { s with sched := us } := encEncode_fails hbad
    _ = _ := raiseTxErr_held _ ho

/-! ### The image in TXBUF -/

/-- `s` with the image `img` put into TXBUF, whose bytes are then `m`, and its emission begun (R115, R119). -/
def loaded (img : List Byte) (m : Memory) (s : State) : State :=
  { s with tx_buf := m, tx_cnt := BitVec.ofNat 9 img.length, tx_idx := 0#9, tx_state := .emit }

section
variable {img frame : List Byte} {m : Memory} {s : State}

/-- An image that fits TXBUF is put there. -/
theorem loadImage_fits (s : State) (hfit : img.length ≤ Config.txBufSize) :
    ∃ m, memWriteList Config.txBufSize s.tx_buf 0 img = some m ∧ loadImage img s = .next (loaded img m s) := by
  obtain ⟨m, hm⟩ := memWriteList_inside s.tx_buf 0 img ((Nat.zero_add _).trans_le hfit)
  exact ⟨m, hm, loadImage_eq_next.mpr ⟨m, hm, rfl⟩⟩

/-- The count of valid bytes of TXBUF does not wrap: TXBUF has 257 bytes, and the count 9 bits. -/
theorem toNat_tx_cnt_loaded (hfit : img.length ≤ Config.txBufSize) : (loaded img m s).tx_cnt.toNat = img.length := by
  have hfit : img.length ≤ 257 := hfit
  exact (BitVec.toNat_ofNat ..).trans (Nat.mod_eq_of_lt (by omega))

/-- TXBUF reads the image, and behind it every byte as before. -/
theorem txRead_loaded (hm : memWriteList Config.txBufSize s.tx_buf 0 img = some m) (i : Nat) :
    txRead (loaded img m s) i = if i < img.length then img[i]? else txRead s i := by
  calc txRead (loaded img m s) i = if 0 ≤ i ∧ i < 0 + img.length then img[i - 0]? else txRead s i :=
        bufRead_memWriteList hm i
    _ = _ := by simp

@[simp] theorem length_wireImage (frame : List Byte) : (wireImage frame).length = frame.length + 2 := by
  simp [wireImage, markerBytes]

/-- The image of a frame that a length byte can count fits TXBUF. -/
theorem wireImage_fits (hlen : frame.length ≤ Config.maxLen) : (wireImage frame).length ≤ Config.txBufSize := by
  have hlen : frame.length ≤ 255 := hlen
  exact (length_wireImage frame).trans_le (show _ ≤ 257 by omega)

end

/-- The ENC step that loads an image: the next state, the count, and TXBUF byte by byte, in the form that the statements for
`ENCODE` and `RAW` share. -/
theorem step_loads {s : State} {a : Option Ack} {us : List Turn} {img : List Byte} {n : Nat} (hrst : s.rst = false)
    (hsched : s.sched = .tx a :: us) (hs : s.tx_state = .enc) (hn : img.length = n)
    (hfit : img.length ≤ Config.txBufSize)
    (henc : encStep { s with sched := us } = loadImage img { s with sched := us }) :
    ∃ (t : State) (m : Memory) (cnt : BitVec 9),
      step s = .next t ∧ t = { s with sched := us, tx_buf := m, tx_cnt := cnt, tx_idx := 0#9, tx_state := .emit } ∧
      cnt.toNat = n ∧ img.length = n ∧
      (∀ i, i < n → txRead t i = img[i]?) ∧ ∀ i, n ≤ i → txRead t i = txRead s i := by
  subst hn
  obtain ⟨m, hm, hload⟩ := loadImage_fits { s with sched := us } hfit
  have hread := txRead_loaded hm
  exact ⟨_, m, _, (step_enc hrst hsched hs).trans (henc.trans hload), rfl,
    toNat_tx_cnt_loaded (s := s) (m := m) hfit, rfl, fun i hi => (hread i).trans (if_pos hi),
    fun i hi => (hread i).trans (if_neg (Nat.not_lt_of_le hi))⟩

/-- The wire image of a decoded `ENCODE` is two bytes longer than its length byte says. -/
theorem length_encodeImage {r : CmdRecord} {serr : Bool} {n : Byte} {op : U16} {hdr : HdrBytes} {pay : List Byte}
    (hdec : decodeCommand r = .encode serr n op hdr pay) :
    (wireImage (encodeFrame n op hdr pay)).length = frameLength n.toNat + 2 := by
  rw [length_wireImage, length_encodeFrame, payload_length_of_decode hdec]
  simp only [frameLength, Config.minLen]
  omega

/-- The wire image of a decoded `RAW` is two bytes longer than its count. -/
theorem length_rawImage {r : CmdRecord} {n : Byte} {bytes : List Byte} (hdec : decodeCommand r = .raw n bytes) :
    (wireImage bytes).length = n.toNat + 2 := by
  rw [length_wireImage, raw_length_of_decode hdec]

/-- Settles O28: the image of the statement is the wire image of the frame. -/
theorem encodeAssembled : Obligations.EncodeAssembled := by
  intro s a us n op hdr pay hrst hsched hs hdec hn L body c img
  have himg : img = wireImage (encodeFrame n op hdr pay) := List.append_assoc ..
  rw [himg]
  exact step_loads hrst hsched hs (length_encodeImage hdec) (wireImage_fits (length_encodeFrame_le hdec hn))
    (encStep_legal_encode hdec hn)

/-- Settles O30. -/
theorem rawAssembled : Obligations.RawAssembled := by
  intro s a us n bytes hrst hsched hs hdec img
  exact step_loads hrst hsched hs (length_rawImage hdec) (wireImage_fits (length_raw_le hdec)) (encStep_raw hdec)

/-- Settles O32: the frame is built from the other header bytes, and its first bytes are the literal ones of R115. -/
theorem callerOpcodeNeverEmitted : Obligations.CallerOpcodeNeverEmitted := fun _ _ _ _ _ _ => ⟨rfl, rfl, rfl⟩

/-! ### One byte of EMIT -/

/-- Everything SNK's answer leads to with the link held (R120). -/
theorem afterAck_held (a : Ack) {s : State} (ho : s.owner = .tx) :
    afterAck a s =
      .next (
        if a = .error then { s with owner := .none, txs_log := s.txs_log ++ [.txWriteError], tx_state := .idle }
        else if s.tx_idx.toNat + 1 = s.tx_cnt.toNat then
          { s with owner := .none, txs_log := s.txs_log ++ [.txDone], tx_state := .idle }
        else { s with tx_idx := s.tx_idx + 1#9 }) := by
  cases a with
  | error => exact raiseTxErr_held .txWriteError ho
  | ok =>
    by_cases hlast : s.tx_idx.toNat + 1 = s.tx_cnt.toNat
    · exact (afterAck_eq_next.mpr (.inr (.inl ⟨rfl, hlast, ho, rfl⟩))).trans (by simp [hlast])
    · exact (afterAck_eq_next.mpr (.inr (.inr ⟨rfl, hlast, rfl⟩))).trans (by simp [hlast])

/-- TX's turn in EMIT with SNK's answer records the byte at `tx_idx`, and then the answer is acted on. -/
theorem txTurn_emit {a : Ack} {s : State} {b : Byte} (hs : s.tx_state = .emit)
    (hb : txRead s s.tx_idx.toNat = some b) :
    txTurn (some a) s = afterAck a { s with wire_out := s.wire_out ++ [(b, a)] } := by
  simp only [txTurn, hs, emitStep, hb]

/-- Settles O31. -/
theorem emitOneByte : Obligations.EmitOneByte := fun s a us b hrst hsched hs ho hb =>
  calc step s = txTurn (some a) { s with sched := us } := step_tx hrst hsched
    _ = afterAck a { s with sched := us, wire_out := s.wire_out ++ [(b, a)] } := txTurn_emit hs hb
    _ = _ := afterAck_held a ho

end Sys2Proof.Machine
end

section
/-! A whole command emitted (43_frame_encoder.md R122): the record latched, the grant, the ENC step, and the bytes of the
image one after the other; and what another block reads of an emitted `ENCODE` (R121). -/

namespace Sys2Proof.Machine

/-! ### The bytes of the image -/

/-- The bytes of a list as `wire_out` records them where SNK answers each OK. -/
def answeredOk (bs : List Byte) : List (Byte × Ack) := bs.map fun b => (b, Ack.ok)

theorem answeredOk_append (bs cs : List Byte) : answeredOk (bs ++ cs) = answeredOk bs ++ answeredOk cs := List.map_append

/-- `s` in EMIT with the link held, the next byte to emit at `idx`: the bytes `out` are already answered OK, and `us` are the
turns left. -/
def midEmission (idx : BitVec 9) (out : List Byte) (us : List Turn) (s : State) : State :=
  { s with
    tx_state := .emit, owner := .tx, tx_idx := idx, sched := us, wire_out := s.wire_out ++ answeredOk out }

/-- `s` with the emission ended at `idx` by its last byte: the bytes `out` are answered OK, the link is free, and TX_DONE is
reported. -/
def emissionDone (idx : BitVec 9) (out : List Byte) (us : List Turn) (s : State) : State :=
  { s with
    tx_state := .idle, owner := .none, tx_idx := idx, sched := us, wire_out := s.wire_out ++ answeredOk out,
    txs_log := s.txs_log ++ [.txDone] }

section
variable {s : State} {idx : BitVec 9} {b : Byte} {bs out : List Byte} {us : List Turn}

/-- A byte that SNK answers OK goes on the wire, and it is the last one or not (R120). -/
theorem step_midEmission (hrst : s.rst = false) (hb : txRead s idx.toNat = some b) :
    step (midEmission idx out (.tx (some .ok) :: us) s) =
      .next (if idx.toNat + 1 = s.tx_cnt.toNat then emissionDone idx (out ++ [b]) us s
        else midEmission (idx + 1#9) (out ++ [b]) us s) := by
  have hout : s.wire_out ++ answeredOk (out ++ [b]) = (s.wire_out ++ answeredOk out) ++ [(b, .ok)] := by
    rw [answeredOk_append, List.append_assoc]
    rfl
  simp only [emissionDone, midEmission, hout]
  exact emitOneByte (midEmission idx out (.tx (some .ok) :: us) s) .ok us b hrst rfl rfl rfl hb

/-- Below the count of the image `tx_idx` goes up by one without wrapping. -/
theorem toNat_tx_idx_succ {cnt : BitVec 9} (h : idx.toNat + 1 < cnt.toNat) : (idx + 1#9).toNat = idx.toNat + 1 := by
  have := cnt.isLt
  bv_omega

/-- The bytes before the last of the image are emitted one after the other. -/
theorem runs_midEmission {idx' : BitVec 9} (hrst : s.rst = false) (hlt : idx.toNat + bs.length < s.tx_cnt.toNat)
    (hidx : idx'.toNat = idx.toNat + bs.length)
    (hread : ∀ i, i < bs.length → txRead s (idx.toNat + i) = bs[i]?) :
    runs bs.length (midEmission idx out (emitTurns bs.length ++ us) s) =
      .next (midEmission idx' (out ++ bs) us s) := by
  induction bs generalizing idx out with
  | nil =>
    obtain rfl : idx' = idx := BitVec.eq_of_toNat_eq hidx
    rw [List.append_nil]
    rfl
  | cons b bs ih =>
    rw [List.length_cons] at hlt hidx
    have hnext : (idx + 1#9).toNat = idx.toNat + 1 := toNat_tx_idx_succ (show _ < s.tx_cnt.toNat by omega)
    have hbyte : txRead s idx.toNat = some b := hread 0 (Nat.succ_pos _)
    have hstep := step_midEmission (out := out) (us := emitTurns bs.length ++ us) hrst hbyte
    rw [if_neg (by omega)] at hstep
    refine runs_of_step hstep ?_
    have hrest := ih (idx := idx + 1#9) (out := out ++ [b]) (by omega) (by omega) fun i hi => by
      rw [hnext, Nat.add_right_comm]
      exact hread (i + 1) (Nat.succ_lt_succ hi)
    rwa [List.append_assoc] at hrest

/-- An image that TXBUF holds is emitted to its last byte. -/
theorem runs_emission {img : List Byte} (hrst : s.rst = false) (hne : img ≠ []) (hcnt : s.tx_cnt.toNat = img.length)
    (hread : ∀ i, i < img.length → txRead s i = img[i]?) :
    ∃ idx, runs img.length (midEmission 0#9 [] (emitTurns img.length ++ us) s) = .next (emissionDone idx img us s) := by
  obtain ⟨bs, b, rfl⟩ := (List.eq_nil_or_concat' img).resolve_left hne
  have hlen : (bs ++ [b]).length = bs.length + 1 := List.length_append
  rw [hlen] at hcnt hread ⊢
  have hlt := s.tx_cnt.isLt
  have hidx : (BitVec.ofNat 9 bs.length).toNat = bs.length := by
    rw [BitVec.toNat_ofNat]
    omega
  have hturns : emitTurns (bs.length + 1) ++ us = emitTurns bs.length ++ .tx (some .ok) :: us := by
    simp [emitTurns, List.replicate_succ']
  have hbody := runs_midEmission (idx := 0#9) (idx' := BitVec.ofNat 9 bs.length) (bs := bs) (out := [])
    (us := .tx (some .ok) :: us) hrst (show 0 + _ < _ by omega) (hidx.trans (Nat.zero_add _).symm) fun i hi => by
      rw [show (0#9).toNat + i = i from Nat.zero_add i, hread i (by omega)]
      exact List.getElem?_append_left hi
  have hlast : txRead s (BitVec.ofNat 9 bs.length).toNat = some b := by
    rw [hidx, hread _ (Nat.lt_succ_self _)]
    exact List.getElem?_concat_length
  have hstep := step_midEmission (out := [] ++ bs) (us := us) hrst hlast
  rw [if_pos (by omega)] at hstep
  rw [hturns]
  exact ⟨_, runs_trans hbody (runs_of_step hstep rfl)⟩

end

/-! ### From the offer of a record to TX_DONE -/

/-- `s` after a command whose record was `r` and whose image was `img`: the image is on the wire, each byte answered OK, and
TXBUF holds `m`. -/
def commandSent (r : CmdRecord) (rs : List CmdRecord) (img : List Byte) (m : Memory) (idx : BitVec 9) (us : List Turn)
    (s : State) : State :=
  emissionDone idx img us (loaded img m { s with cmd := rs, tx_cmd := r })

section
variable {s : State} {r : CmdRecord} {rs : List CmdRecord} {us : List Turn}

/-- `s` with the record `r` latched and the link granted: TX is in ENC, `rs` is still offered, and `us` are the turns
left. -/
def readyToEncode (r : CmdRecord) (rs : List CmdRecord) (us : List Turn) (s : State) : State :=
  { s with sched := us, cmd := rs, tx_cmd := r, owner := .tx, tx_state := .enc }

/-- The record is latched, and the link granted (R109 to R111, R54). -/
theorem runs_latched_and_granted (hrst : s.rst = false) (hs : s.tx_state = .idle) (ho : s.owner = .none)
    (hcmd : s.cmd = r :: rs) (hframe : isFrameCommand (decodeCommand r) = true)
    (hsched : s.sched = .tx none :: .arb .tx :: us) :
    runs 2 s = .next (readyToEncode r rs us s) := by
  refine runs_of_step (offeredRecordIsLatched s none _ r rs hrst hsched hs hcmd hframe) ?_
  have hgrant := (grantsTakeTheLink { s with sched := .arb .tx :: us, cmd := rs, tx_cmd := r, tx_state := .acq } .tx us
    hrst rfl ho).2 rfl (.inr rfl)
  exact runs_of_step hgrant rfl

/-- The ENC step leaves an emission of which nothing is on the wire yet. -/
theorem loaded_eq_midEmission (img : List Byte) (m : Memory) :
    loaded img m (readyToEncode r rs us s) = midEmission 0#9 [] us (loaded img m { s with cmd := rs, tx_cmd := r }) := by
  simp [loaded, readyToEncode, midEmission, answeredOk]

/-- A frame command whose ENC step loads `img` is emitted whole under the one grant (R122). -/
theorem runs_command {img : List Byte} (hrst : s.rst = false) (hs : s.tx_state = .idle) (ho : s.owner = .none)
    (hcmd : s.cmd = r :: rs) (hframe : isFrameCommand (decodeCommand r) = true) (hne : img ≠ [])
    (hfit : img.length ≤ Config.txBufSize) (henc : ∀ t : State, t.tx_cmd = r → encStep t = loadImage img t)
    (hsched : s.sched = [.tx none, .arb .tx, .tx none] ++ emitTurns img.length ++ us) :
    ∃ m idx, runs (img.length + 3) s = .next (commandSent r rs img m idx us s) := by
  obtain ⟨m, hm, hload⟩ := loadImage_fits (readyToEncode r rs (emitTurns img.length ++ us) s) hfit
  have hstep : step (readyToEncode r rs (.tx none :: (emitTurns img.length ++ us)) s) =
      .next (loaded img m (readyToEncode r rs (emitTurns img.length ++ us) s)) :=
    calc step (readyToEncode r rs (.tx none :: (emitTurns img.length ++ us)) s)
        = encStep (readyToEncode r rs (emitTurns img.length ++ us) s) := step_enc hrst rfl rfl
      _ = loadImage img (readyToEncode r rs (emitTurns img.length ++ us) s) := henc _ rfl
      _ = _ := hload
  obtain ⟨idx, hemission⟩ := runs_emission (s := loaded img m { s with cmd := rs, tx_cmd := r }) (us := us) hrst hne
    (toNat_tx_cnt_loaded hfit) fun i hi => (txRead_loaded hm i).trans (if_pos hi)
  refine ⟨m, idx, ?_⟩
  rw [show img.length + 3 = 2 + (img.length + 1) by omega]
  refine runs_trans (runs_latched_and_granted hrst hs ho hcmd hframe hsched) (runs_of_step hstep ?_)
  rw [loaded_eq_midEmission, hemission, commandSent]

end

theorem wireImage_ne_nil (frame : List Byte) : wireImage frame ≠ [] := nofun

/-- The run of a legal `ENCODE`, from its offer to TX_DONE. -/
theorem runs_encode {s : State} {us : List Turn} {r : CmdRecord} {rs : List CmdRecord} {n : Byte} {op : U16}
    {hdr : HdrBytes} {pay : List Byte} (hrst : s.rst = false) (hs : s.tx_state = .idle) (ho : s.owner = .none)
    (hcmd : s.cmd = r :: rs) (hdec : decodeCommand r = .encode false n op hdr pay) (hn : n.toNat ≤ Config.maxPayload)
    (hsched : s.sched = [.tx none, .arb .tx, .tx none] ++ emitTurns (n.toNat + 13) ++ us) :
    (wireImage (encodeFrame n op hdr pay)).length = n.toNat + 13 ∧
      ∃ m idx, runs (n.toNat + 16) s =
        .next (commandSent r rs (wireImage (encodeFrame n op hdr pay)) m idx us s) := by
  have hlen : (wireImage (encodeFrame n op hdr pay)).length = n.toNat + 13 := by
    rw [length_encodeImage hdec, frameLength, Config.hdrLen, Config.ckLen]
    omega
  refine ⟨hlen, ?_⟩
  rw [← hlen] at hsched
  rw [show n.toNat + 16 = (wireImage (encodeFrame n op hdr pay)).length + 3 by omega]
  exact runs_command hrst hs ho hcmd (by rw [hdec]; rfl) (wireImage_ne_nil _)
    (wireImage_fits (length_encodeFrame_le hdec hn)) (fun t ht => encStep_legal_encode (ht.symm ▸ hdec) hn) hsched

/-- Settles O33. -/
theorem encodeEmittedWhole : Obligations.EncodeEmittedWhole := by
  intro s us r rs n op hdr pay hrst hs ho hcmd hdec hn hsched
  obtain ⟨hlen, m, idx, hrun⟩ := runs_encode hrst hs ho hcmd hdec hn hsched
  exact ⟨_, hrun, rfl, hlen, rfl, rfl, rfl, rfl, rfl, rfl, rfl, rfl, rfl⟩

/-- Settles O34. -/
theorem rawEmittedWhole : Obligations.RawEmittedWhole := by
  intro s us r rs n bytes hrst hs ho hcmd hdec hsched
  have hlen := length_rawImage hdec
  rw [← hlen] at hsched
  obtain ⟨m, idx, hrun⟩ := runs_command hrst hs ho hcmd (by rw [hdec]; rfl) (wireImage_ne_nil bytes)
    (wireImage_fits (length_raw_le hdec)) (fun t ht => encStep_raw (n := n) (ht.symm ▸ hdec)) hsched
  rw [hlen] at hrun
  exact ⟨_, hrun, rfl, raw_length_of_decode hdec, rfl, rfl, rfl, rfl, rfl, rfl, rfl, rfl, rfl⟩

/-! ### What another block reads of an emitted `ENCODE` -/

theorem fo_eq_some {s : State} {f : FoFrame} :
    fo s = some f ↔ s.rx_state = .out ∧ foRecord (rxRead s) s.rx_len = some f := by
  rw [fo, Option.ite_none_right_eq_some, foValid_iff]

/-- The length byte of the frame of a legal `ENCODE` says the frame's length: it does not wrap (R115). -/
theorem toNat_lengthByte {n : Byte} (hn : n.toNat ≤ Config.maxPayload) :
    (BitVec.ofNat 8 (frameLength n.toNat) : Byte).toNat = 11 + n.toNat := by
  have hn : n.toNat ≤ 244 := hn
  rw [BitVec.toNat_ofNat, frameLength, Config.hdrLen, Config.ckLen]
  omega

section
variable {rd : Nat → Option Byte} {L : Byte} {f : FoFrame}

/-- The record's fields are read from the bytes it shows. -/
theorem read_eq_bytes (hf : foRecord rd L = some f) :
    f.bytes.length = L.toNat ∧ ∀ i, i < L.toNat → rd i = f.bytes[i]? := by
  obtain ⟨hbytes, -⟩ := foRecord_eq_some.mp hf
  obtain ⟨hlen, hread⟩ := readRange_eq_some.mp hbytes
  exact ⟨hlen, fun i hi => (congrArg rd (Nat.zero_add i)).symm.trans (hread i hi)⟩

variable {n : Byte} {op : U16} {h : HdrBytes} {pay : List Byte}

/-- The payload stands behind the nine bytes of length and header. -/
theorem encodeFrame_payload {i : Nat} (hi : i < pay.length) : (encodeFrame n op h pay)[9 + i]? = pay[i]? := by
  have hbody : 9 + i < (frameBody n op h pay).length := by
    simp only [frameBody, List.length_append, List.length_cons, List.length_nil]
    omega
  calc (encodeFrame n op h pay)[9 + i]? = (frameBody n op h pay)[9 + i]? := withChecksum_getElem?_of_lt hbody
    _ = pay[9 + i - 9]? := List.getElem?_append_right (Nat.le_add_right 9 i)
    _ = pay[i]? := by rw [Nat.add_sub_cancel_left]

/-- The record of a frame that an `ENCODE` made shows the caller's header, but for the opcode, and the payload (R121). -/
theorem foRecord_encodeFrame (hf : foRecord rd L = some f) (hbytes : f.bytes = encodeFrame n op h pay)
    (hlen : pay.length = n.toNat) :
    f.origin_subnet = h.h0 ∧ f.origin_device = h.h1 ∧ f.origin_device_type = be16 h.h2 h.h3 ∧
      f.opcode = op ∧ f.target_subnet = h.h6 ∧ f.target_device = h.h7 ∧ f.payload = pay ∧
      f.len.toNat = 11 + n.toNat := by
  obtain ⟨hL, hread⟩ := read_eq_bytes hf
  rw [hbytes, length_encodeFrame, hlen] at hL
  rw [hbytes] at hread
  have hL : L.toNat = 11 + n.toNat := hL.symm
  obtain ⟨-, hos, hod, hot, hop, hts, htd, hpay, -, hflen, -⟩ := foRecord_eq_some.mp hf
  have hbyte {i : Nat} {v w : Byte} (hi : i < 11) (hv : rd i = some v) (hw : (encodeFrame n op h pay)[i]? = some w) :
      v = w := Option.some.inj (hv.symm.trans ((hread i (by omega)).trans hw))
  have hpair {i : Nat} {v : U16} {a b : Byte} (hi : i < 10) (hv : readBe16 rd i = some v)
      (ha : (encodeFrame n op h pay)[i]? = some a) (hb : (encodeFrame n op h pay)[i + 1]? = some b) : v = be16 a b := by
    obtain ⟨x, y, hx, hy, rfl⟩ := readBe16_eq_some.mp hv
    rw [hbyte (by omega) hx ha, hbyte (by omega) hy hb]
  have hpayload : readRange rd 9 (L.toNat - Config.minLen) = some pay := by
    have hcount : L.toNat - Config.minLen = pay.length := by
      rw [hL, hlen]
      exact Nat.add_sub_cancel_left 11 _
    rw [hcount]
    exact readRange_eq_some.mpr ⟨rfl, fun i hi => (hread _ (by omega)).trans (encodeFrame_payload hi)⟩
  refine ⟨hbyte (by omega) hos rfl, hbyte (by omega) hod rfl, hpair (by omega) hot rfl rfl, ?_,
    hbyte (by omega) hts rfl, hbyte (by omega) htd rfl, Option.some.inj (hpay.symm.trans hpayload), by rw [hflen, hL]⟩
  exact (hpair (by omega) hop rfl rfl).trans (be16_hi8_lo8 op)

end

/-- Settles O40: the emitted bytes are the wire image of a body with its checksum, which a block in HUNT reads whole and
offers. -/
theorem encodedFrameIsReceived : Obligations.EncodedFrameIsReceived := by
  intro a s r rs n op h pay us vs ws hrst hidle ho hcmd hdec hn hsched
  obtain ⟨-, m, idx, hrun⟩ := runs_encode hrst hidle ho hcmd hdec hn hsched
  refine ⟨_, wireImage (encodeFrame n op h pay), hrun, rfl, fun hsrst hhunt hsfree hev hturns => ?_⟩
  have hL : (BitVec.ofNat 8 (frameLength n.toNat) : Byte).toNat = 11 + n.toNat := toNat_lengthByte hn
  have hpay : pay.length = n.toNat := payload_length_of_decode hdec
  obtain ⟨t, f, hread, hout, -, hfo, hbytes, -⟩ := validFrameReachesOut s vs ws (BitVec.ofNat 8 (frameLength n.toNat))
    ([h.h0, h.h1, h.h2, h.h3, hi8 op, lo8 op, h.h6, h.h7] ++ pay) hsrst hhunt hsfree (by omega)
    (by rw [hL, ← hpay]; simp only [List.length_cons, List.length_append, List.length_nil]; omega) hev
    (by rw [hturns, hL, Nat.add_comm 11, Nat.add_assoc])
  rw [hL, show 11 + n.toNat + 3 = n.toNat + 14 by omega] at hread
  obtain ⟨-, hrecord⟩ := fo_eq_some.mp hfo
  exact ⟨t, f, hread, hout, hfo, foRecord_encodeFrame hrecord hbytes hpay⟩

end Sys2Proof.Machine
end

section
/-! What the exceptions and a reset leave (60_exceptions.md sections 1 to 4): the terminal states of the two paths, the only
way into FATAL, what RX and TX share, the reset step, and HOST's operations at the ports. -/

namespace Sys2Proof.Machine

/-! ### The reset step and HOST's operations -/

/-- After a reset every byte of the two buffers is its free value for that reset (log entry 4). -/
theorem rxRead_resetBlock (s : State) {a : Nat} (ha : a < 255) :
    rxRead (resetBlock s) a = some (Config.resetRxByte (resetBlock s).resets a) := bufRead_inside ha

theorem txRead_resetBlock (s : State) {a : Nat} (ha : a < 257) :
    txRead (resetBlock s) a = some (Config.resetTxByte (resetBlock s).resets a) := bufRead_inside ha

/-- A turn that is not HOST's is the reset step while `rst` is asserted. -/
theorem step_in_reset {s : State} {u : Turn} {us : List Turn} (hrst : s.rst = true) (hsched : s.sched = u :: us)
    (hu : ∀ op, u ≠ .host op) : step s = .next (resetBlock { s with sched := us }) :=
  step_eq_next.mpr (.inr ⟨u, us, hsched, .inr (.inl ⟨hu, hrst, rfl⟩)⟩)

/-- Settles O43. -/
theorem resetTakesPrecedence : Obligations.ResetTakesPrecedence := fun _ _ _ hrst hsched hu =>
  ⟨_, _, step_in_reset hrst hsched hu, rfl, fun _ => rxRead_resetBlock _, fun _ => txRead_resetBlock _⟩

theorem step_host {s : State} {op : HostOp} {us : List Turn} (hsched : s.sched = .host op :: us) :
    step s = hostTurn op { s with sched := us } := step_of_sched hsched

/-- Settles O45: the literal record and the literal word are those of CLOSE and of CLOSED. -/
theorem hostOffersAtThePorts : Obligations.HostOffersAtThePorts := by
  intro s us r
  have hclosed : eventWord 3#2 0#8 = 0x300#10 := by decide
  refine ⟨step_host, step_host, fun hsched => ?_⟩
  rw [step_host hsched, hostTurn, hclosed]

/-! ### What RX and TX share -/

/-- Settles O56: RX's turn leaves TX's part as it was, and TX's turn RX's part. -/
theorem rxAndTxShareOnlyTheOwner : Obligations.RxAndTxShareOnlyTheOwner := by
  intro s t u us hrst hsched hstep
  constructor
  · rintro f rfl
    have hpart : txPart t = txPart s :=
      rxTurn_txPart (s := { s with sched := us }) ((step_rx hrst hsched).symm.trans hstep)
    simpa only [txPart, TxPart.mk.injEq] using hpart
  · rintro a rfl
    have hpart : rxPart t = rxPart s :=
      txTurn_rxPart (s := { s with sched := us }) ((step_tx hrst hsched).symm.trans hstep)
    simpa only [rxPart, RxPart.mk.injEq] using hpart

/-! ### The terminal states -/

/-- The paths of `s` that have ended, have ended in `t` too, RX's for the same cause. -/
def EndsStay (s t : State) : Prop :=
  (s.rx_state = .fatal → t.rx_state = .fatal ∧ t.rx_fatal = s.rx_fatal) ∧ (s.tx_state = .closed → t.tx_state = .closed)

theorem rxTurn_endsStay {f : Bool} {s t : State} (h : rxTurn f s = .next t) : EndsStay s t := by
  constructor
  · intro hs
    obtain rfl := next_eq_next.mp ((rxTurn_waits (.inr (.inl hs))).symm.trans h)
    exact ⟨hs, rfl⟩
  · exact (congrArg TxPart.tx_state (rxTurn_txPart h)).trans

theorem txTurn_endsStay {a : Option Ack} {s t : State} (h : txTurn a s = .next t) : EndsStay s t := by
  have hpart := txTurn_rxPart h
  refine ⟨fun hs => ⟨(congrArg RxPart.rx_state hpart).trans hs, congrArg RxPart.rx_fatal hpart⟩, fun hs => ?_⟩
  obtain rfl := next_eq_next.mp ((txTurn_waits (.inr (.inl hs))).symm.trans h)
  exact hs

/-- A grant goes to an agent that requests one, and an ended path does not. -/
theorem arbTurn_endsStay (c : Grantee) (s : State) : EndsStay s (arbTurn c s) := by
  rcases arbTurn_cases c s with ⟨he, -, hrx⟩ | ⟨he, -, htx⟩ | ⟨he, -⟩ <;> rw [he]
  · exact ⟨fun hs => absurd (hrx.symm.trans hs) nofun, id⟩
  · exact ⟨fun hs => ⟨hs, rfl⟩, fun hs => absurd (htx.symm.trans hs) nofun⟩
  · exact ⟨fun hs => ⟨hs, rfl⟩, id⟩

theorem hostTurn_endsStay {op : HostOp} {s t : State} (hop : op ≠ .reset) (h : hostTurn op s = .next t) :
    EndsStay s t := by
  rcases hostTurn_eq_next.mp h with ⟨rfl, -⟩ | ⟨-, -, rfl⟩ | ⟨_, -, rfl⟩ | ⟨-, rfl⟩ | ⟨-, rfl⟩
  · exact absurd rfl hop
  all_goals exact ⟨fun hs => ⟨hs, rfl⟩, id⟩

/-- Settles O46, by the agent whose turn it is. -/
theorem terminalStatesStay : Obligations.TerminalStatesStay := by
  intro s t u us hrst hsched hu hstep
  show EndsStay { s with sched := us } t
  cases u with
  | host op =>
    rw [step_host hsched] at hstep
    exact hostTurn_endsStay (fun hop => hu (congrArg Turn.host hop)) hstep
  | rx f => exact rxTurn_endsStay ((step_rx hrst hsched).symm.trans hstep)
  | tx a => exact txTurn_endsStay ((step_tx hrst hsched).symm.trans hstep)
  | arb c =>
    obtain rfl := next_eq_next.mp ((step_arb hrst hsched).symm.trans hstep)
    exact arbTurn_endsStay c _

/-! ### The way into FATAL -/

theorem verifyFrame_not_fatal {s t : State} (h : verifyFrame s = .next t) : t.rx_state ≠ .fatal := by
  obtain ⟨_, _, -, ⟨-, -, rfl⟩ | ⟨-, rfl⟩⟩ := verifyFrame_eq_next.mp h
  · exact nofun
  · simp [raiseDrop_eq]

/-- No byte is fatal: what is wrong with a frame is a drop (R128). -/
theorem execByte_not_fatal {d : Byte} {s t : State} (hs : s.rx_state ≠ .fatal) (h : execByte d s = .next t) :
    t.rx_state ≠ .fatal := by
  rcases execByte_cases h with ⟨-, rfl⟩ | ⟨-, -, rfl⟩ | ⟨-, -, rfl⟩ | ⟨-, -, rfl⟩ | ⟨-, -, -, rfl⟩ | ⟨-, -, rfl⟩ |
    ⟨-, -, rfl⟩ | ⟨-, -, rfl⟩ | ⟨-, -, hv⟩
  · exact hs
  · exact nofun
  · exact hs
  · exact nofun
  · exact nofun
  · exact nofun
  · simp [raiseDrop_eq]
  · exact hs
  · exact verifyFrame_not_fatal hv

/-- An event that takes RX into FATAL is an ERROR or a CLOSED, and leaves the words behind it at the port. -/
theorem execEvent_fatal {w : EventWord} {s t : State} (hready : rxEvReady s = true)
    (h : exec (decodeEvent w) s = .next t) (hs : s.rx_state ≠ .fatal) (ht : t.rx_state = .fatal) :
    t.rx_ev = s.rx_ev ∧ (decodeEvent w = .error ∨ decodeEvent w = .closed) := by
  rcases execEvent_cases hready h with ⟨d, -, hb⟩ | ⟨-, rfl⟩ | ⟨hw, rfl⟩ | ⟨hw, rfl⟩
  · exact absurd ht (execByte_not_fatal hs hb)
  · split at ht
    · simp [raiseDrop_eq] at ht
    · exact absurd ht hs
  · exact ⟨by rw [raiseFatal_eq], .inl hw⟩
  · exact ⟨by rw [raiseFatal_eq], .inr hw⟩

/-- RX's turn goes into FATAL only by an ERROR or a CLOSED at its port. -/
theorem rxTurn_fatal {f : Bool} {s t : State} (h : rxTurn f s = .next t) (hs : s.rx_state ≠ .fatal)
    (ht : t.rx_state = .fatal) :
    ∃ w ws, s.rx_ev = w :: ws ∧ t.rx_ev = ws ∧ (decodeEvent w = .error ∨ decodeEvent w = .closed) := by
  rcases rxTurn_eq_next.mp h with ⟨-, -, hd⟩ | ⟨-, -, rfl⟩ | ⟨-, hr⟩
  · obtain ⟨-, _, -, rfl⟩ := deliver_eq_next.mp hd
    cases ht
  · exact absurd ht hs
  · rcases rxStep_eq_next.mp hr with ⟨w, ws, hready, hev, hx⟩ | ⟨-, rfl⟩
    · exact ⟨w, ws, hev, execEvent_fatal (s := takeEvent w ws s) hready hx hs ht⟩
    · exact absurd ht hs

theorem hostTurn_not_fatal {op : HostOp} {s t : State} (h : hostTurn op s = .next t) (hs : s.rx_state ≠ .fatal) :
    t.rx_state ≠ .fatal := by
  rcases hostTurn_eq_next.mp h with ⟨-, rfl⟩ | ⟨-, -, rfl⟩ | ⟨_, -, rfl⟩ | ⟨-, rfl⟩ | ⟨-, rfl⟩
  · exact nofun
  all_goals exact hs

theorem arbTurn_not_fatal (c : Grantee) {s : State} (hs : s.rx_state ≠ .fatal) : (arbTurn c s).rx_state ≠ .fatal := by
  rcases arbTurn_cases c s with ⟨he, -⟩ | ⟨he, -⟩ | ⟨he, -⟩ <;> rw [he]
  · exact nofun
  · exact hs
  · exact hs

/-- Settles O55: of the turns only RX's goes into FATAL. -/
theorem onlyReadFailuresAreFatal : Obligations.OnlyReadFailuresAreFatal := by
  intro s t hstep hs ht
  rcases step_eq_next.mp hstep with ⟨-, rfl⟩ | ⟨u, us, -, hu⟩
  · exact absurd ht hs
  · rcases hu with ⟨op, -, hx⟩ | ⟨-, -, rfl⟩ | ⟨f, -, -, hx⟩ | ⟨a, -, -, hx⟩ | ⟨c, -, -, rfl⟩
    · exact absurd ht (hostTurn_not_fatal hx hs)
    · cases ht
    · exact rxTurn_fatal (s := { s with sched := us }) hx hs ht
    · exact absurd ((congrArg RxPart.rx_state (txTurn_rxPart hx)).symm.trans ht) hs
    · exact absurd ht (arbTurn_not_fatal c hs)

end Sys2Proof.Machine
end

section
/-! The way to STOPPED (60_exceptions.md R140): what is left of the two paths' work as a number, which no turn of a round
raises and every round lowers until both paths have ended. -/

namespace Sys2Proof.Machine

/-! ### The duties -/

/-- RX has ended, or the next event ends it. -/
def ClosedDue (s : State) : Prop := s.rx_state = .fatal ∨ ∃ w ws, s.rx_ev = w :: ws ∧ decodeEvent w = .closed

/-- TX has exited, or CLOSE is the one record left to it. -/
def CloseDue (s : State) : Prop := s.tx_state = .closed ∨ s.cmd = [closeRecord]

/-- A safe state in which HOST has done its part of `stop()` (R139). -/
structure Stopping (s : State) : Prop where
  inv : Inv s
  rst : s.rst = false
  closedDue : ClosedDue s
  closeDue : CloseDue s

/-- The schedule is no part of the duties. -/
theorem Stopping.outside {s : State} (h : Stopping s) (us : List Turn) : Stopping { s with sched := us } :=
  ⟨h.inv.outside, h.rst, h.closedDue, h.closeDue⟩

/-! ### The work left -/

/-- How many turns that do something RX has before its end: to deliver its frame or to be granted the link, and to read
CLOSED. -/
def rxWork : RxState → Nat
  | .fatal => 0
  | .hunt | .seen1 | .len | .body => 1
  | .acq | .out => 2

/-- How many such turns TX has at most: for the grant and the ENC step, for the bytes of the image, and to accept CLOSE. -/
def txWork (st : TxState) (cnt idx : BitVec 9) : Nat :=
  match st with
  | .closed => 0
  | .idle => 1
  | .emit => 1 + (cnt.toNat - idx.toNat)
  | .enc => 2 + Config.txBufSize
  | .acq => 3 + Config.txBufSize

/-- The work left to both paths. -/
def workLeft (s : State) : Nat := rxWork s.rx_state + txWork s.tx_state s.tx_cnt s.tx_idx

theorem rxWork_eq_zero {st : RxState} : rxWork st = 0 ↔ st = .fatal := by cases st <;> simp [rxWork]

theorem rxWork_of_ready {s : State} (h : rxEvReady s = true) : rxWork s.rx_state = 1 := by
  rcases rxEvReady_iff.mp h with hs | hs | hs | hs <;> rw [hs] <;> rfl

theorem rxWork_le (st : RxState) : rxWork st ≤ 2 := by cases st <;> simp [rxWork]

theorem txWork_eq_zero {st : TxState} {cnt idx : BitVec 9} : txWork st cnt idx = 0 ↔ st = .closed := by
  cases st <;> simp [txWork]

theorem txWork_le {s : State} (h : Inv s) : txWork s.tx_state s.tx_cnt s.tx_idx ≤ 3 + Config.txBufSize := by
  cases hs : s.tx_state with
  | emit =>
    obtain ⟨-, hcnt, -⟩ := h.emit hs
    simp only [txWork]
    omega
  | idle | acq | enc | closed =>
    simp only [txWork]
    omega

/-- STOPPED is that no work is left (R33). -/
theorem connState_stopped {s : State} (h : workLeft s = 0) : connState s = .stopped := by
  obtain ⟨hrx, htx⟩ := Nat.add_eq_zero_iff.mp h
  simp [connState, rxWork_eq_zero.mp hrx, txWork_eq_zero.mp htx]

/-! ### One turn -/

/-- A turn on the way to STOPPED: the duties stay met, and some of the work is done, or the turn passed, which happens under
the condition `passes` only. -/
structure Progresses (passes : Prop) (s t : State) : Prop where
  stopping : Stopping t
  sched : t.sched = s.sched
  work : workLeft t < workLeft s ∨ (t = s ∧ passes)

namespace Progresses

variable {passes : Prop} {s t : State}

theorem of_pass (h : Stopping s) (hpass : passes) : Progresses passes s s := ⟨h, rfl, .inr ⟨rfl, hpass⟩⟩

theorem workLeft_le (h : Progresses passes s t) : workLeft t ≤ workLeft s := by
  rcases h.work with hlt | ⟨rfl, -⟩
  · exact hlt.le
  · exact le_rfl

/-- A turn that does some of TX's work and leaves RX's part as it was. -/
theorem of_tx (h : Stopping s) (ht : Inv t) (hrst : t.rst = s.rst) (hsched : t.sched = s.sched)
    (hrx : rxPart t = rxPart s) (hdue : CloseDue t)
    (hwork : txWork t.tx_state t.tx_cnt t.tx_idx < txWork s.tx_state s.tx_cnt s.tx_idx) : Progresses passes s t := by
  have hst : t.rx_state = s.rx_state := congrArg RxPart.rx_state hrx
  have hev : t.rx_ev = s.rx_ev := congrArg RxPart.rx_ev hrx
  refine ⟨⟨ht, hrst.trans h.rst, ?_, hdue⟩, hsched, .inl ?_⟩
  · rw [ClosedDue, hst, hev]
    exact h.closedDue
  · rw [workLeft, workLeft, hst]
    exact Nat.add_lt_add_left hwork _

/-- A turn that does some of RX's work and leaves TX's part as it was. -/
theorem of_rx (h : Stopping s) (ht : Inv t) (hrst : t.rst = s.rst) (hsched : t.sched = s.sched)
    (htx : txPart t = txPart s) (hdue : ClosedDue t) (hwork : rxWork t.rx_state < rxWork s.rx_state) :
    Progresses passes s t := by
  have hst : t.tx_state = s.tx_state := congrArg TxPart.tx_state htx
  have hcmd : t.cmd = s.cmd := congrArg TxPart.cmd htx
  have hcnt : t.tx_cnt = s.tx_cnt := congrArg TxPart.tx_cnt htx
  have hidx : t.tx_idx = s.tx_idx := congrArg TxPart.tx_idx htx
  refine ⟨⟨ht, hrst.trans h.rst, hdue, ?_⟩, hsched, .inl ?_⟩
  · rw [CloseDue, hst, hcmd]
    exact h.closeDue
  · rw [workLeft, workLeft, hst, hcnt, hidx]
    exact Nat.add_lt_add_right hwork _

end Progresses

/-! ### TX's turn -/

theorem decodeCommand_closeRecord : decodeCommand closeRecord = .close := decodeCommand_of_passesClose ⟨rfl, rfl⟩

/-- TX in IDLE accepts CLOSE and exits (R112). -/
theorem acceptStep_close {s : State} (hs : s.tx_state = .idle) (hcmd : s.cmd = [closeRecord]) :
    acceptStep s = .next { txStatus .closedOk (takeRecord [] s) with tx_state := .closed } := by
  rw [acceptStep, hcmd]
  simp only [decodeCommand_closeRecord, exec]
  exact execClose_ready (cmdReady_iff.mpr hs)

/-- What TX leaves where it works on a latched command: the reset input, the schedule and the records at its port. -/
def OffersKept (s t : State) : Prop := t.rst = s.rst ∧ t.sched = s.sched ∧ t.cmd = s.cmd

theorem raiseTxErr_ends {c : TxStatus} {s t : State} (h : raiseTxErr c s = .next t) :
    OffersKept s t ∧ t.tx_state = .idle := by
  obtain ⟨-, rfl⟩ := raiseTxErr_eq_next.mp h
  exact ⟨⟨rfl, rfl, rfl⟩, rfl⟩

theorem loadImage_ends {img : List Byte} {s t : State} (h : loadImage img s = .next t) :
    OffersKept s t ∧ t.tx_state = .emit := by
  obtain ⟨_, -, rfl⟩ := loadImage_eq_next.mp h
  exact ⟨⟨rfl, rfl, rfl⟩, rfl⟩

/-- The ENC step abandons the command or begins the emission (R115, R119). -/
theorem encStep_ends {s t : State} (h : encStep s = .next t) :
    OffersKept s t ∧ (t.tx_state = .idle ∨ t.tx_state = .emit) := by
  rcases encStep_eq_next.mp h with ⟨_, _, _, _, _, -, he⟩ | ⟨_, _, -, hl⟩
  · rcases encEncode_eq_next.mp he with ⟨-, he⟩ | ⟨-, -, he⟩ | ⟨-, -, hl⟩
    · exact (raiseTxErr_ends he).imp_right .inl
    · exact (raiseTxErr_ends he).imp_right .inl
    · exact (loadImage_ends hl).imp_right .inr
  · exact (loadImage_ends hl).imp_right .inr

/-- The EMIT step ends the command or goes one byte further (R120). -/
theorem emitStep_ends {a : Ack} {s t : State} (h : emitStep a s = .next t) :
    OffersKept s t ∧
      (t.tx_state = .idle ∨
        (t.tx_state = s.tx_state ∧ t.tx_cnt = s.tx_cnt ∧ t.tx_idx = s.tx_idx + 1#9 ∧
          s.tx_idx.toNat + 1 ≠ s.tx_cnt.toNat)) := by
  obtain ⟨b, -, ha⟩ := emitStep_eq_next.mp h
  rcases afterAck_eq_next.mp ha with ⟨-, he⟩ | ⟨-, -, -, rfl⟩ | ⟨-, hne, rfl⟩
  · exact (raiseTxErr_ends (s := { s with wire_out := s.wire_out ++ [(b, a)] }) he).imp_right .inl
  · exact ⟨⟨rfl, rfl, rfl⟩, .inl rfl⟩
  · exact ⟨⟨rfl, rfl, rfl⟩, .inr ⟨rfl, rfl, rfl, hne⟩⟩

/-- The emission of an image takes less work than its command before it was assembled. -/
theorem encStep_txWork {s t : State} (h : Inv t) (hs : s.tx_state = .enc) (he : encStep s = .next t) :
    txWork t.tx_state t.tx_cnt t.tx_idx < txWork s.tx_state s.tx_cnt s.tx_idx := by
  obtain ⟨-, hidle | hemit⟩ := encStep_ends he
  · simp only [hidle, hs, txWork]
    omega
  · obtain ⟨-, hcnt, -⟩ := h.emit hemit
    simp only [hemit, hs, txWork]
    omega

/-- Every byte emitted is one less to emit. -/
theorem emitStep_txWork {a : Ack} {s t : State} (h : Inv s) (hs : s.tx_state = .emit) (he : emitStep a s = .next t) :
    txWork t.tx_state t.tx_cnt t.tx_idx < txWork s.tx_state s.tx_cnt s.tx_idx := by
  obtain ⟨-, -, hlt, -⟩ := h.emit hs
  obtain ⟨-, hidle | ⟨hst, hcnt, hidx, hne⟩⟩ := emitStep_ends he
  · simp only [hidle, hs, txWork]
    omega
  · have hnext : (s.tx_idx + 1#9).toNat = s.tx_idx.toNat + 1 := toNat_tx_idx_succ (cnt := s.tx_cnt) (by omega)
    simp only [hst, hs, hcnt, hidx, hnext, txWork]
    omega

/-- TX works on, unless it waits for the grant or has exited. -/
theorem txTurn_progresses {a : Ack} {s t : State} (h : Stopping s) (ht : txTurn (some a) s = .next t) :
    Progresses (s.tx_state = .acq ∨ s.tx_state = .closed) s t := by
  have hinv : Inv t := txTurn_keeps_inv h.inv ht
  have hrx : rxPart t = rxPart s := txTurn_rxPart ht
  have hclose (hs : s.tx_state ≠ .closed) : s.cmd = [closeRecord] := h.closeDue.resolve_left hs
  rcases txTurn_eq_next.mp ht with ⟨hs, hacc⟩ | ⟨hs, he⟩ | ⟨k, hs, -, he⟩ | ⟨hpass, rfl⟩
  · obtain rfl := next_eq_next.mp ((acceptStep_close hs (hclose (by simp [hs]))).symm.trans hacc)
    exact .of_tx h hinv rfl rfl hrx (.inl rfl) (by simp [hs, txWork])
  · obtain ⟨⟨hrst, hsched, hcmd⟩, -⟩ := encStep_ends he
    exact .of_tx h hinv hrst hsched hrx (.inr (hcmd.trans (hclose (by simp [hs])))) (encStep_txWork hinv hs he)
  · obtain ⟨⟨hrst, hsched, hcmd⟩, -⟩ := emitStep_ends he
    exact .of_tx h hinv hrst hsched hrx (.inr (hcmd.trans (hclose (by simp [hs])))) (emitStep_txWork h.inv hs he)
  · exact .of_pass h (hpass.resolve_left fun hnone => nomatch hnone.2)

/-! ### The arbiter's turn and RX's -/

/-- The arbiter makes a grant, unless the link is held or no agent requests it. -/
theorem arbTurn_progresses (c : Grantee) {s : State} (h : Stopping s) :
    Progresses (s.owner = .none → s.rx_state ≠ .acq ∧ s.tx_state ≠ .acq) s (arbTurn c s) := by
  have hinv : Inv (arbTurn c s) := arbTurn_keeps_inv c h.inv
  rcases arbTurn_cases c s with ⟨he, -, hs⟩ | ⟨he, -, hs⟩ | ⟨he, hpass⟩ <;> rw [he] at hinv ⊢
  · exact .of_rx h hinv rfl rfl rfl (.inr (h.closedDue.resolve_left (by simp [hs]))) (by simp [hs, rxWork])
  · exact .of_tx h hinv rfl rfl rfl (.inr (h.closeDue.resolve_left (by simp [hs]))) (by simp [hs, txWork])
  · exact .of_pass h hpass

/-- The event that RX reads next is the CLOSED that is due. -/
theorem ClosedDue.decode_head {s : State} {w : EventWord} {ws : List EventWord} (h : ClosedDue s)
    (hs : s.rx_state ≠ .fatal) (hev : s.rx_ev = w :: ws) : decodeEvent w = .closed := by
  obtain ⟨w', ws', hev', hdec⟩ := h.resolve_left hs
  obtain ⟨rfl, -⟩ := List.cons.inj (hev.symm.trans hev')
  exact hdec

/-- A CLOSED ends RX, and leaves the reset input and the schedule. -/
theorem execEvent_closed {w : EventWord} {s t : State} (hready : rxEvReady s = true) (hw : decodeEvent w = .closed)
    (h : exec (decodeEvent w) s = .next t) : t.rst = s.rst ∧ t.sched = s.sched ∧ t.rx_state = .fatal := by
  rw [hw, exec, execClosed_eq, if_pos hready, next_eq_next, raiseFatal_eq] at h
  subst h
  exact ⟨rfl, rfl, rfl⟩

/-- Where RX passes its turn it waits for the grant or has ended: CLOSED is there to be read. -/
theorem ClosedDue.pass {s : State} (h : ClosedDue s) (hout : s.rx_state ≠ .out)
    (hpass : rxEvReady s = false ∨ s.rx_ev = []) : s.rx_state = .acq ∨ s.rx_state = .fatal := by
  rcases hpass with hwait | hnil
  · rcases rxEvReady_eq_false_iff.mp hwait with hs | hs | hs
    · exact .inl hs
    · exact .inr hs
    · exact absurd hs hout
  · exact .inr (h.resolve_right fun ⟨_, _, hev, _⟩ => nomatch hnil.symm.trans hev)

/-- RX delivers its frame or reads CLOSED, unless it waits for the grant or has ended. -/
theorem rxTurn_progresses {s t : State} (h : Stopping s) (ht : rxTurn true s = .next t) :
    Progresses (s.rx_state = .acq ∨ s.rx_state = .fatal) s t := by
  have hinv : Inv t := rxTurn_keeps_inv h.inv ht
  have htx : txPart t = txPart s := rxTurn_txPart ht
  rcases rxTurn_eq_next.mp ht with ⟨hs, -, hd⟩ | ⟨-, hready, -⟩ | ⟨hout, hr⟩
  · obtain ⟨-, _, -, rfl⟩ := deliver_eq_next.mp hd
    exact .of_rx h hinv rfl rfl htx (.inr (h.closedDue.resolve_left (by simp [hs]))) (by simp [hs, rxWork])
  · cases hready
  · rcases rxStep_eq_next.mp hr with ⟨w, ws, hready, hev, hx⟩ | ⟨hpass, rfl⟩
    · have hfatal : s.rx_state ≠ .fatal := fun hs => by simp [rxEvReady, hs] at hready
      obtain ⟨hrst, hsched, hst⟩ :=
        execEvent_closed (s := takeEvent w ws s) hready (h.closedDue.decode_head hfatal hev) hx
      exact .of_rx h hinv hrst hsched htx (.inl hst) (by rw [hst, rxWork_of_ready hready]; exact Nat.zero_lt_one)
    · exact .of_pass h (h.closedDue.pass hout hpass)

/-! ### The rounds -/

/-- Where every agent passes its turn, nothing is left to do: an agent that waits for the link is granted it, since the link
is held by an agent that does not pass (R31). -/
theorem workLeft_eq_zero_of_pass {s : State} (h : Inv s) (htx : s.tx_state = .acq ∨ s.tx_state = .closed)
    (harb : s.owner = .none → s.rx_state ≠ .acq ∧ s.tx_state ≠ .acq) (hrx : s.rx_state = .acq ∨ s.rx_state = .fatal) :
    workLeft s = 0 := by
  have hrxHolds : rxHolds s.rx_state = false := by rcases hrx with hs | hs <;> rw [hs] <;> rfl
  have htxHolds : txHolds s.tx_state = false := by rcases htx with hs | hs <;> rw [hs] <;> rfl
  have howner : s.owner = .none := by
    cases ho : s.owner with
    | none => rfl
    | rx => exact absurd (h.rxOwns.mp ho) (by simp [hrxHolds])
    | tx => exact absurd (h.txOwns.mp ho) (by simp [htxHolds])
  obtain ⟨hrxAcq, htxAcq⟩ := harb howner
  exact Nat.add_eq_zero_iff.mpr
    ⟨rxWork_eq_zero.mpr (hrx.resolve_left hrxAcq), txWork_eq_zero.mpr (htx.resolve_left htxAcq)⟩

section
variable {s : State} {us : List Turn}

/-- A safe state with `rst` low answers an agent's turn. -/
theorem step_answers {u : Turn} (h : Stopping s) (hsched : s.sched = u :: us) (hu : u ≠ .host .start) :
    ∃ t, step s = .next t := by
  rcases step_answers_or_second_start h.inv with hnext | ⟨-, -, _, hstart⟩
  · exact hnext
  · exact absurd (List.cons.inj (hsched.symm.trans hstart)).1 hu

theorem step_tx_progresses {a : Ack} (h : Stopping s) (hsched : s.sched = .tx (some a) :: us) :
    ∃ t, step s = .next t ∧ Progresses (s.tx_state = .acq ∨ s.tx_state = .closed) { s with sched := us } t := by
  obtain ⟨t, ht⟩ := step_answers h hsched nofun
  exact ⟨t, ht, txTurn_progresses (h.outside us) ((step_tx h.rst hsched).symm.trans ht)⟩

theorem step_arb_progresses {c : Grantee} (h : Stopping s) (hsched : s.sched = .arb c :: us) :
    ∃ t, step s = .next t ∧
      Progresses (s.owner = .none → s.rx_state ≠ .acq ∧ s.tx_state ≠ .acq) { s with sched := us } t :=
  ⟨_, step_arb h.rst hsched, arbTurn_progresses c (h.outside us)⟩

theorem step_rx_progresses (h : Stopping s) (hsched : s.sched = .rx true :: us) :
    ∃ t, step s = .next t ∧ Progresses (s.rx_state = .acq ∨ s.rx_state = .fatal) { s with sched := us } t := by
  obtain ⟨t, ht⟩ := step_answers h hsched nofun
  exact ⟨t, ht, rxTurn_progresses (h.outside us) ((step_rx h.rst hsched).symm.trans ht)⟩

/-- A round does some of the work, if any is left. -/
theorem runs_fairRound {c : Grantee} {a : Ack} (h : Stopping s) (hsched : s.sched = fairRound c a ++ us) :
    ∃ t, runs 3 s = .next t ∧ Stopping t ∧ t.sched = us ∧ workLeft t ≤ workLeft s - 1 := by
  obtain ⟨t₁, hstep₁, hp₁⟩ := step_tx_progresses h hsched
  obtain ⟨t₂, hstep₂, hp₂⟩ := step_arb_progresses hp₁.stopping hp₁.sched
  obtain ⟨t₃, hstep₃, hp₃⟩ := step_rx_progresses hp₂.stopping hp₂.sched
  refine ⟨t₃, runs_of_step hstep₁ (runs_of_step hstep₂ (runs_of_step hstep₃ rfl)), hp₃.stopping, hp₃.sched, ?_⟩
  have hle₁ : workLeft t₁ ≤ workLeft s := hp₁.workLeft_le
  have hle₂ : workLeft t₂ ≤ workLeft t₁ := hp₂.workLeft_le
  have hle₃ : workLeft t₃ ≤ workLeft t₂ := hp₃.workLeft_le
  rcases hp₁.work with (hlt : workLeft t₁ < workLeft s) | ⟨rfl, htx⟩
  · omega
  rcases hp₂.work with (hlt : workLeft t₂ < workLeft s) | ⟨rfl, harb⟩
  · omega
  rcases hp₃.work with (hlt : workLeft t₃ < workLeft s) | ⟨rfl, hrx⟩
  · omega
  have hzero := workLeft_eq_zero_of_pass h.inv htx harb hrx
  exact (show workLeft s ≤ _ by omega)

/-- Each of `n` rounds does some of the work, while any is left. -/
theorem runs_fairRounds {c : Grantee} {a : Ack} {n : Nat} (h : Stopping s) (hsched : s.sched = fairRounds c a n) :
    ∃ t, runs (3 * n) s = .next t ∧ workLeft t ≤ workLeft s - n := by
  induction n generalizing s with
  | zero => exact ⟨s, rfl, le_rfl⟩
  | succ n ih =>
    obtain ⟨t, hround, hstopping, hrest, hwork⟩ := runs_fairRound h hsched
    obtain ⟨v, hrounds, hv⟩ := ih hstopping hrest
    refine ⟨v, ?_, by omega⟩
    rw [Nat.mul_succ, Nat.add_comm]
    exact runs_trans hround hrounds

end

/-- Settles O47: the work of any safe state is less than 300 rounds do. -/
theorem stopReachesStopped : Obligations.StopReachesStopped := by
  intro s c a hinv hrst hclosed hclose hsched
  obtain ⟨t, hruns, hwork⟩ := runs_fairRounds ⟨hinv, hrst, hclosed, hclose⟩ hsched
  have hbound : workLeft s ≤ 2 + (3 + 257) := Nat.add_le_add (rxWork_le s.rx_state) (txWork_le hinv)
  exact ⟨t, hruns, connState_stopped (by omega)⟩

end Sys2Proof.Machine
end

section
/-! HOST's two operations on `rst`: the reset is taken in the step that asserts it, and `start()` releases it once
(70_reset_and_hazards.md sections 1 and 2). -/

namespace Sys2Proof.Machine

/-- The step that asserts `rst` is itself the reset step (log entry 11). -/
theorem step_host_reset {s : State} {us : List Turn} (hsched : s.sched = .host .reset :: us) :
    step s = .next (resetBlock { s with sched := us, rst := true }) := step_host hsched

/-- Settles O42: HOST's turn takes the reset of the block, whose buffers read their free values. -/
theorem resetTaken : Obligations.ResetTaken := fun _ _ hsched =>
  ⟨_, _, step_host_reset hsched, rfl, fun _ => rxRead_resetBlock _, fun _ => txRead_resetBlock _⟩

/-- HOST's `start()` releases an asserted `rst` (R145). -/
theorem step_start_in_reset {s : State} {us : List Turn} (hsched : s.sched = .host .start :: us) (hrst : s.rst = true) :
    step s = .next { s with sched := us, rst := false } :=
  (step_host hsched).trans (hostTurn_eq_next.mpr (.inr (.inl ⟨rfl, hrst, rfl⟩)))

/-- Settles O44, by the level of `rst`. -/
theorem startIsSingleUse : Obligations.StartIsSingleUse := fun _ _ hsched =>
  ⟨step_start_in_reset hsched, step_second_start hsched⟩

end Sys2Proof.Machine
end

section
/-! The eight words written out from the encoding tables (30_encoding.md sections 2, 3 and 6): each is the concatenation of
its fields, so the decoder's laws for the words the encoder builds answer it. -/

namespace Sys2Proof

/-- Settles O7: the `ENCODE` and `RAW` words are `encodeRecord` and `rawRecord` of their operands, the event words
`eventWord` of status and data, the `CLOSE` word is `closeRecord`, and the last has kind 11, which R74 calls illegal. -/
theorem sampleWordsDecode : Obligations.SampleWordsDecode := by
  have hencode : encodeRecord true 1 0x0031 ⟨3, 0xFE, 0xFF, 0xFE, 0, 0, 1, 0x1C⟩ [2] =
      ⟨0b00100000000000010000000000110001#32, [3, 0xFE, 0xFF, 0xFE, 0, 0, 1, 0x1C, 2]⟩ := by decide
  have hraw : rawRecord 2 [0xAA, 5] = ⟨0b01000000000000000000000000000010#32, [0xAA, 5]⟩ := by decide
  refine ⟨?byte, ?timeout, ?error, ?closed, ?encode, ?raw, ?close, ?illegal⟩
  case byte => exact decodeEvent_eventWord 0#2 0xAA#8
  case timeout => exact decodeEvent_eventWord 1#2 0xAA#8
  case error => exact decodeEvent_eventWord 2#2 0xAA#8
  case closed => exact decodeEvent_eventWord 3#2 0xFF#8
  case encode => exact hencode ▸ decodeCommand_encodeRecord true 0x0031 _ rfl
  case raw => exact hraw ▸ decodeCommand_rawRecord rfl
  case close => exact decodeCommand_of_passesClose ⟨rfl, rfl⟩
  case illegal => exact (illegalRecordsExactly _).mpr (by decide)

end Sys2Proof
end
